-- ==== Sys2Proof/Word.lean ====
section
/-!
DEFINITION. The word types of the EPOS frame engine (spec 00_scope R10): `u8`, `u16` and the 32-bit HOST32 word.
-/

namespace Sys2Proof

/-- `u8` of rule R10: a byte of a frame, a token or an 8-bit register. -/
abbrev Byte := BitVec 8

/-- `u16` of rule R10: a 16-bit register, a checksum, the DATA field. -/
abbrev Half := BitVec 16

/-- A HOST32 access word (30_encoding R91) or a 32-bit field of the client layer (R201). -/
abbrev Word := BitVec 32

end Sys2Proof
end

