-- ==== Sys2Proof/Config.lean ====
section
/-!
DEFINITION. What an implementation fixes (the parameters of 00_scope R9) and the free values: the values the
spec leaves unspecified (93_implementation_defined U1 to U5, U9, U12) are opaque constants, so nothing can be
proved of them that does not hold for every choice.
-/

namespace Sys2Proof

/-- The environment's answer to a `TxGroup` (20_memory R70). On `writeFail` it has delivered the first
`sent` bytes of the group to the peer: any prefix, from none to all (93 U4). `never`: the environment breaks its duty and
this transaction is never answered (70_reset R281 (a), 93 U7; log entry 31). -/
inductive TxAnswer where
  | accepted
  | writeFail (sent : Nat)
  | never
  deriving DecidableEq, Repr, Inhabited

/-- The environment's answer to an `RxGroup` (20_memory R71): the next bytes of the receive stream, or a
timeout, on which the transport has lost the first `lost` bytes it held (environment state, log entry 4). `never`: this
transaction is never answered (70_reset R281 (a), 93 U7; log entry 31). -/
inductive RxAnswer where
  | bytes
  | timeout (lost : Nat)
  | never
  deriving DecidableEq, Repr, Inhabited

/-- The three commands (30_encoding R94). -/
inductive Command where
  | crcRun
  | send
  | recv
  deriving DecidableEq, Repr, Inhabited

/-- The protocol variants the source names (40_crc R133). Only `canonical` is admitted. -/
inductive Variant where
  | canonical
  | reflected8408
  | byteCountLength
  deriving DecidableEq, Repr, Inhabited

/-! ## Parameters with a value (00_scope R9) -/

/-- CRC_POLY. -/
def Config.crcPoly : Half := 0x1021#16

/-- FCS_SEED (40_crc R126). -/
def Config.fcsSeed : Half := 0x0000#16

/-- PAYLOAD_MAX_WORDS. -/
def Config.payloadMaxWords : Nat := 255

/-- BUF_BYTES. -/
def Config.bufBytes : Nat := 510

/-- PAYLOAD_MIN_BYTES. -/
def Config.payloadMinBytes : Nat := 2

/-- RESPONSE_OPCODE. -/
def Config.responseOpcode : Byte := 0x00#8

/-- OPC_READ_OBJECT, client layer only. -/
def Config.opcReadObject : Byte := 0x10#8

/-- OPC_WRITE_OBJECT, client layer only. -/
def Config.opcWriteObject : Byte := 0x11#8

/-- TOKEN_O, the character 'O' (30_encoding R102; log entry 25). -/
def Config.tokenO : Byte := 0x4F#8

/-- TOKEN_F, the character 'F' (30_encoding R102; log entry 25). -/
def Config.tokenF : Byte := 0x46#8

/-- PROTOCOL_VARIANT: the one admitted value (40_crc R133). -/
def Config.protocolVariant : Variant := .canonical

/-- The value register VARIANT reads for CANONICAL (10_state R38). -/
def Config.variantId : Byte := 0x01#8

/-- TRANSPORT_TIMEOUT in milliseconds: the environment's, read by nothing in the model (R252, R279). -/
def Config.transportTimeoutMs : Nat := 100

/-- A line configuration (70_reset R268). -/
structure LineConfig where
  baud : Nat
  dataBits : Nat
  parity : Bool
  stopBits : Nat
  deriving DecidableEq, Repr

/-- LINE_CONFIG: 115200 baud, 8 data bits, no parity, 1 stop bit; the environment's, read by nothing in the model (R268,
R279). -/
def Config.lineConfig : LineConfig := { baud := 115200, dataBits := 8, parity := false, stopBits := 1 }

/-- BLOCK_BASE (20_memory R77): OPEN, no rule depends on it, and the model reads it nowhere. -/
opaque Config.blockBase : Nat

/-! ## Free values

Each takes the number of the draw (a plain counter of State) or of the reset, so that two draws are unrelated. -/

/-- BUF[i] after reset number `epoch`, until it is written (10_state R47, 93 U1). -/
opaque Config.bufByte (epoch i : Nat) : Byte

/-- BUF[i] after a RECV that timed out in step R4 (42_frame_recv R175, 93 U2). -/
opaque Config.timeoutByte (draw i : Nat) : Byte

/-- What a read returns while the block is busy (44_host_access R219, 93 U3). -/
opaque Config.busyRead (draw : Nat) : Half

/-- The environment's answer to a transmit transaction (20_memory R70, 93 U4 and U5). -/
opaque Config.txAnswer (draw : Nat) : TxAnswer

/-- The environment's answer to a receive transaction (20_memory R71, 93 U5). -/
opaque Config.rxAnswer (draw : Nat) : RxAnswer

/-- Byte `i` of those the peer sends while a receive transaction is pending (20_memory R71, 93 U5). -/
opaque Config.rxByte (draw i : Nat) : Byte

/-- With no event scheduled, how many moves a controller that has something to do makes before the next block step
(20_memory R79 (d); log entries 1 and 33). -/
opaque Config.controllerTurns (draw : Nat) : Nat

/-- The same, before the first such block step. -/
opaque Config.firstTurns : Nat

/-- `cur` after reset (10_state R40, 93 U12). -/
opaque Config.resetCur (epoch : Nat) : Command

/-- `lenf` after reset (10_state R40, 93 U12). -/
opaque Config.resetLenf (epoch : Nat) : Byte

/-- `fcs_acc` after reset (10_state R40, 93 U12). -/
opaque Config.resetFcsAcc (epoch : Nat) : Half

end Sys2Proof
end

