-- ==== Sys2Proof/Syntax.lean ====
section
/-!
DEFINITION. The instructions: one constructor for each row of spec/opcode_table.json.
-/

namespace Sys2Proof

/-- The rows of spec/opcode_table.json.

The six HOST32 rows are controller accesses (30_encoding R91). The reserved bits 30:26 are kept as an operand,
because the spec gives words with non-zero reserved bits an effect (R92), and so are the bits a row ignores, so
that no bit of a word is lost. The five one-byte rows are the wire opcodes (R98) and the tokens (R102). -/
inductive Instr where
  /-- HOST_RD (44_host_access R215). `data` is ignored. -/
  | hostRd (rsv : BitVec 5) (reg : BitVec 10) (data : Half)
  /-- HOST_WR (44_host_access R216). -/
  | hostWr (rsv : BitVec 5) (reg : BitVec 10) (data : Half)
  /-- CRC_RUN (40_crc R129): a write of 0x01 to CMD; `hi` is the ignored DATA[15:8] (R93). -/
  | crcRun (hi : Byte)
  /-- SEND (41_frame_send R148): a write of 0x02 to CMD. -/
  | send (hi : Byte)
  /-- RECV (42_frame_recv R178): a write of 0x03 to CMD. -/
  | recv (hi : Byte)
  /-- CMD_ILLEGAL (30_encoding R95): a write of any other code to CMD. -/
  | cmdIllegal (hi code : Byte)
  /-- RESPONSE, wire opcode 0x00 (42_frame_recv R172). -/
  | response
  /-- READ_OBJECT, wire opcode 0x10 (43_client_od_layer R202). -/
  | readObject
  /-- WRITE_OBJECT, wire opcode 0x11 (43_client_od_layer R204). -/
  | writeObject
  /-- TOKEN_O, the byte 'O' (30_encoding R102). -/
  | tokenO
  /-- TOKEN_F, the byte 'F' (30_encoding R102). -/
  | tokenF
  deriving DecidableEq, Repr

end Sys2Proof
end

