-- ==== Sys2Proof/WellFormed.lean ====
section
/-!
DEFINITION. The well-formed instructions: those a decoder can answer. A write to CMD is never a HOST_WR (the table
gives it four rows of its own), and CMD_ILLEGAL never holds one of the three legal codes.
-/

namespace Sys2Proof

/-- The command codes of 30_encoding R94. -/
def isCommandCode (code : Byte) : Bool :=
  code == 0x01#8 || code == 0x02#8 || code == 0x03#8

/-- What the opcode table asks of an instruction's operands. -/
def WellFormed : Instr → Bool
  | .hostRd _ _ _ => true
  | .hostWr rsv reg _ => !(rsv == 0#5 && reg == 0#10)
  | .crcRun _ => true
  | .send _ => true
  | .recv _ => true
  | .cmdIllegal _ code => !isCommandCode code
  | .response => true
  | .readObject => true
  | .writeObject => true
  | .tokenO => true
  | .tokenF => true

end Sys2Proof
end

