-- ==== Sys2Proof/Decode.lean ====
section
/-!
DEFINITION. Decoding and encoding. A HOST32 word always decodes (30_encoding R92); a byte on the wire decodes only
where the opcode table has a row for it, and is rejected by name otherwise.
-/

namespace Sys2Proof

/-- What is fetched: a controller access word, or one byte of the wire encodings (30_encoding R90). -/
inductive CodeWord where
  | host32 (w : Word)
  | wire8 (b : Byte)
  deriving DecidableEq, Repr

/-- Why a byte is no instruction. Its effect as received data is Machine/Wire.lean's. -/
inductive Reject where
  /-- The opcode table has no row for this byte on the wire. -/
  | noWireRow (b : Byte)
  /-- The byte is no opcode the client layer sends (43_client_od_layer R202, R204). -/
  | noRequest (b : Byte)
  deriving DecidableEq, Repr

/-! ## HOST32 (30_encoding R91 to R95) -/

/-- `w[30:26]`. -/
def fieldRsv (w : Word) : BitVec 5 := w.extractLsb' 26 5

/-- `w[25:16]`. -/
def fieldReg (w : Word) : BitVec 10 := w.extractLsb' 16 10

/-- `w[15:0]`. -/
def fieldData (w : Word) : Half := w.extractLsb' 0 16

/-- `w[31]`. -/
def fieldW (w : Word) : Bool := w.getLsbD 31

/-- DATA[15:8]. -/
def dataHi (d : Half) : Byte := d.extractLsb' 8 8

/-- DATA[7:0]. -/
def dataLo (d : Half) : Byte := d.extractLsb' 0 8

/-- A write to CMD: the code picks the row (30_encoding R93 to R95). -/
def decodeCommandWrite (d : Half) : Instr :=
  if dataLo d = 0x01#8 then .crcRun (dataHi d)
  else if dataLo d = 0x02#8 then .send (dataHi d)
  else if dataLo d = 0x03#8 then .recv (dataHi d)
  else .cmdIllegal (dataHi d) (dataLo d)

/-- Every 32-bit word decodes (30_encoding R92). -/
def decodeHost (w : Word) : Instr :=
  if fieldW w then
    if fieldRsv w = 0#5 ∧ fieldReg w = 0#10 then decodeCommandWrite (fieldData w)
    else .hostWr (fieldRsv w) (fieldReg w) (fieldData w)
  else .hostRd (fieldRsv w) (fieldReg w) (fieldData w)

/-! ## One-byte rows -/

/-- The rows for a byte the peer sends: RESPONSE and the two tokens (30_encoding R98, R102). -/
def decodeReceived (b : Byte) : Except Reject Instr :=
  if b = 0x00#8 then .ok .response
  else if b = 0x4F#8 then .ok .tokenO
  else if b = 0x46#8 then .ok .tokenF
  else .error (.noWireRow b)

/-- The rows for an opcode the client sends (43_client_od_layer R202, R204). -/
def decodeRequest (b : Byte) : Except Reject Instr :=
  if b = 0x10#8 then .ok .readObject
  else if b = 0x11#8 then .ok .writeObject
  else .error (.noRequest b)

/-- All five one-byte rows. -/
def decodeWire (b : Byte) : Except Reject Instr :=
  match decodeRequest b with
  | .ok i => .ok i
  | .error _ => decodeReceived b

/-- The decoder, total on every code word. -/
def decode : CodeWord → Except Reject Instr
  | .host32 w => .ok (decodeHost w)
  | .wire8 b => decodeWire b

/-! ## Encoding -/

/-- The HOST32 word with the given fields (30_encoding R91). -/
def hostWord (w : BitVec 1) (rsv : BitVec 5) (reg : BitVec 10) (data : Half) : Word :=
  w ++ rsv ++ reg ++ data

/-- The word that writes `hi ‖ code` to CMD (30_encoding R93). -/
def commandWord (hi code : Byte) : Word :=
  hostWord 1#1 0#5 0#10 (hi ++ code)

/-- The encoder, written from 30_encoding R91, R93, R94, R98 and R102. -/
def encode : Instr → CodeWord
  | .hostRd rsv reg data => .host32 (hostWord 0#1 rsv reg data)
  | .hostWr rsv reg data => .host32 (hostWord 1#1 rsv reg data)
  | .crcRun hi => .host32 (commandWord hi 0x01#8)
  | .send hi => .host32 (commandWord hi 0x02#8)
  | .recv hi => .host32 (commandWord hi 0x03#8)
  | .cmdIllegal hi code => .host32 (commandWord hi code)
  | .response => .wire8 0x00#8
  | .readObject => .wire8 0x10#8
  | .writeObject => .wire8 0x11#8
  | .tokenO => .wire8 0x4F#8
  | .tokenF => .wire8 0x46#8

/-! ## The opcode table's numbering -/

/-- The code word whose bits are `w`: a one-byte row for at most 8 bits, a HOST32 word otherwise. -/
def codeWordOfBits (nbits w : Nat) : CodeWord :=
  if nbits ≤ 8 then .wire8 (BitVec.ofNat 8 w) else .host32 (BitVec.ofNat 32 w)

/-- What the decoder reads from `nbits` bits `w`, numbered as spec/opcode_table.json numbers them. -/
def decodeTableWord (nbits w : Nat) : Option Instr :=
  match decode (codeWordOfBits nbits w) with
  | .ok i => some i
  | .error _ => none

end Sys2Proof
end

