-- ==== Sys2Proof/Machine/State.lean ====
section
/-!
DEFINITION. The state of the three agents (00_scope R8): the block, the link to the environment, the controller; the
events that say who moves; the state after reset; the reasons a step can stop.
-/

namespace Sys2Proof.Machine

/-- Why a run is faulted (60_exceptions R247). -/
inductive Fault where
  /-- Recorded in STATUS.FAULT by `State.raiseFault` when the controller writes CMD, OPC, NBYTES, SEED or BUF while the
  block is busy (R218). No step ENDS in a fault: the spec gives the effect, and the machine goes on (R248). Safety.lean
  reads it back from the state. Safe. -/
  | writeWhileBusy
  deriving DecidableEq, Repr

/-- Why a step has no meaning. -/
inductive Refusal where
  /-- Raised by an arm of `exec` whose instruction has no meaning yet; no arm raises it now. Safe. -/
  | notModelled (mnemonic : String)
  /-- Raised by `stepUnder` for a PROTOCOL_VARIANT other than CANONICAL (40_crc R133, 93 U8). Safe. -/
  | variantNotAdmitted (v : Variant)
  deriving DecidableEq, Repr

/-- The result codes of 60_exceptions R236. -/
inductive ResultCode where
  | ok
  | deviceNotReady
  | unexpectedAck
  | deviceRejectedFrame
  | unexpectedOpcode
  | lengthMismatch
  | checksumMismatch
  | timeout
  | transportWrite
  | badLength
  | illegalCommand
  deriving DecidableEq, Repr

/-- The states of the handshake state machine (10_state R42). The RECV states carry an `r`; they are not rules. -/
inductive St where
  | idle
  | c1
  | s1 | s2 | s3 | s4 | s5 | s6
  | r1 | r2 | r3 | r4 | r5 | r6
  deriving DecidableEq, Repr

/-- The payload buffer's contents: the bytes that hold a specified value, addresses rising (20_memory R62). An
address not listed holds an unspecified byte (10_state R47). -/
abbrev Memory := List Host.Cell

/-- The block: its registers (10_state R22) and its internal state (R40). STATUS.BUSY is computed from `st` (R25) and
VARIANT is hardwired (R38). -/
structure Block where
  /-- CMD, write-only. -/
  cmd : Byte
  /-- STATUS.DONE (R26). -/
  done : Bool
  /-- STATUS.OK (R27). -/
  ok : Bool
  /-- STATUS.FAULT (R28). -/
  fault : Bool
  /-- RESULT (R30). -/
  result : ResultCode
  /-- ERRBYTE (R31). -/
  errbyte : Byte
  /-- OPC (R32). -/
  opc : Byte
  /-- The register LENF (R33). -/
  lenfReg : Byte
  /-- NBYTES (R34). -/
  nbytes : Half
  /-- SEED (R35). -/
  seed : Half
  /-- CRC (R36). -/
  crc : Half
  /-- RXCRC (R37). -/
  rxcrc : Half
  /-- BUF (R39). -/
  buf : Memory
  /-- The model's own: how many resets there were; picks the unspecified bytes of BUF. -/
  epoch : Nat
  /-- `st` (R40). -/
  st : St
  /-- `cur` (R40). -/
  cur : Command
  /-- `lenf` (R40), the length field of the exchange in progress. -/
  lenf : Byte
  /-- `fcs_acc` (R40), the CRC engine's working value. -/
  fcsAcc : Half
  deriving DecidableEq, Repr

/-- The link to the environment (20_memory R63, R64, R70, R71). -/
structure Link where
  /-- The transmit stream, oldest byte first. -/
  txStream : List Byte
  /-- The bytes of the receive stream the transport holds, next byte first (R80, R81). -/
  rxStream : List Byte
  /-- The environment's next answers to transmit transactions; a free value when empty. -/
  txAnswers : List TxAnswer
  /-- The environment's next answers to receive transactions; a free value when empty. -/
  rxAnswers : List RxAnswer
  /-- The transaction in progress is one the environment never answers (70_reset R281 (a), 93 U7). -/
  unanswered : Bool
  deriving DecidableEq, Repr

/-- The client layer's two requests (43_client_od_layer R202, R204). -/
inductive Request where
  | read
  | write
  deriving DecidableEq, Repr

/-- How a client request ended (43_client_od_layer R203, R205). -/
inductive ClientOutcome where
  /-- `read_object` returned this value. -/
  | value (v : Word)
  /-- `write_object` succeeded. -/
  | written
  /-- The frame exchange failed with this RESULT. -/
  | failed (result : Byte)
  /-- `DeviceError(code)` (R206). -/
  | deviceError (code : Word)
  deriving DecidableEq, Repr

/-- The client layer's data: a request's arguments (R201), the response bytes it has read, its outcome. -/
structure Client where
  index : Half
  subindex : Byte
  nodeId : Byte
  value : Word
  bytes : List Byte
  outcome : Option ClientOutcome
  deriving DecidableEq, Repr

/-- One operation of a controller program. -/
inductive CtlOp where
  /-- One HOST32 access (30_encoding R108). -/
  | access (w : Word)
  /-- WAIT (30_encoding R109): read STATUS until BUSY = 0. -/
  | wait
  /-- The client layer is asked for a request (43_client_od_layer R203, R205). -/
  | request (r : Request)
  /-- Client: read RESULT; unless it is OK the request fails with it (R203, R205). -/
  | checkResult
  /-- Client: read BUF[i] and keep the byte (R203, R205). -/
  | collect (i : Nat)
  /-- Client: interpret the response to a read request (R203). -/
  | endRead
  /-- Client: interpret the response to a write request (R205). -/
  | endWrite
  deriving DecidableEq, Repr

/-- The controller (00_scope R8). -/
structure Controller where
  /-- What it does next, in order. -/
  program : List CtlOp
  /-- The DATA value its last HOST_RD returned (44_host_access R215). -/
  data : Half
  client : Client
  deriving DecidableEq, Repr

/-- One move of one agent. -/
inductive Event where
  /-- The controller performs the next operation of its program. -/
  | controller
  /-- The block takes one step. -/
  | block
  /-- A byte the peer sent reaches the transport (20_memory R80). -/
  | wire (b : Byte)
  /-- The environment flushes the receive stream (70_reset R269). -/
  | flush
  /-- Reset (70_reset R265, R266). -/
  | reset
  deriving DecidableEq, Repr

/-- The whole machine. -/
structure State where
  block : Block
  link : Link
  ctl : Controller
  /-- The moves to come (20_memory R79 (d)); when empty, the agents that can move do, in an order left free. -/
  sched : List Event
  /-- The model's own: how many free values were drawn. -/
  draws : Nat
  /-- The model's own: with no event scheduled, how many moves the controller still makes before the block steps (log entry
  33). -/
  turns : Nat
  deriving DecidableEq, Repr

/-- The block right after reset number `epoch` (70_reset R265; 10_state R22, R47). -/
def Block.reset (epoch : Nat) : Block where
  cmd := 0x00#8
  done := false
  ok := false
  fault := false
  result := .ok
  errbyte := 0x00#8
  opc := 0x00#8
  lenfReg := 0x00#8
  nbytes := 0x0000#16
  seed := 0x0000#16
  crc := 0x0000#16
  rxcrc := 0x0000#16
  buf := []
  epoch := epoch
  st := .idle
  cur := Config.resetCur epoch
  lenf := Config.resetLenf epoch
  fcsAcc := Config.resetFcsAcc epoch

/-- The machine right after the first reset: streams empty, no answer fixed in advance, no program loaded (log entries
11, 18, 21, 22 and 33). -/
def State.reset : State where
  block := Block.reset 0
  link := { txStream := [], rxStream := [], txAnswers := [], rxAnswers := [], unanswered := false }
  ctl :=
    { program := []
      data := 0x0000#16
      client :=
        { index := 0x0000#16, subindex := 0x00#8, nodeId := 0x00#8, value := 0x00000000#32, bytes := [],
          outcome := none } }
  sched := []
  draws := 0
  turns := Config.firstTurns

end Sys2Proof.Machine
end

