-- ==== Sys2Proof/Machine/Flags.lean ====
section
/-!
DEFINITION. The flags: the four bits of STATUS (10_state R24 to R29) and the result codes (60_exceptions R236).
-/

namespace Sys2Proof.Machine

/-- STATUS.BUSY equals 1 exactly when `st` is not IDLE (10_state R25). -/
def Block.busy (b : Block) : Bool := decide (b.st ≠ .idle)

/-- STATUS.BUSY of the machine's block. -/
def State.busy (s : State) : Bool := s.block.busy

/-- The byte STATUS reads: FAULT, OK, DONE, BUSY in bits 3 to 0, and 0 above (10_state R24, R29). -/
def Block.statusByte (b : Block) : Byte :=
  0#4 ++ BitVec.ofBool b.fault ++ BitVec.ofBool b.ok ++ BitVec.ofBool b.done ++ BitVec.ofBool b.busy

/-- The numeric result codes of 60_exceptions R236. -/
def ResultCode.toByte : ResultCode → Byte
  | .ok => 0x00#8
  | .deviceNotReady => 0x01#8
  | .unexpectedAck => 0x02#8
  | .deviceRejectedFrame => 0x03#8
  | .unexpectedOpcode => 0x04#8
  | .lengthMismatch => 0x05#8
  | .checksumMismatch => 0x06#8
  | .timeout => 0x07#8
  | .transportWrite => 0x08#8
  | .badLength => 0x09#8
  | .illegalCommand => 0x0A#8

end Sys2Proof.Machine
end

