-- ==== Sys2Proof/Machine/Operands.lean ====
section
/-!
DEFINITION. The operand forms: register numbers (10_state R22, 30_encoding R92), the length check and the length field
(41_frame_send R141, 30_encoding R99), byte halves and assembly (30_encoding R101, 43_client_od_layer R201).
-/

namespace Sys2Proof.Machine

/-- The mapped registers (10_state R22). -/
inductive Reg where
  | cmd
  | status
  | result
  | errbyte
  | opc
  | lenf
  | nbytes
  | seed
  | crc
  | rxcrc
  | variant
  | buf (i : Nat)
  deriving DecidableEq, Repr

/-- The register with a given number; none where the number is unmapped (20_memory R61). -/
def Reg.ofNumber (n : BitVec 10) : Option Reg :=
  if n = 0x000#10 then some .cmd
  else if n = 0x001#10 then some .status
  else if n = 0x002#10 then some .result
  else if n = 0x003#10 then some .errbyte
  else if n = 0x004#10 then some .opc
  else if n = 0x005#10 then some .lenf
  else if n = 0x006#10 then some .nbytes
  else if n = 0x007#10 then some .seed
  else if n = 0x008#10 then some .crc
  else if n = 0x009#10 then some .rxcrc
  else if n = 0x00A#10 then some .variant
  else if 0x100 ≤ n.toNat ∧ n.toNat < 0x100 + Config.bufBytes then some (.buf (n.toNat - 0x100))
  else none

/-- The number of a register (10_state R22). -/
def Reg.number : Reg → BitVec 10
  | .cmd => 0x000#10
  | .status => 0x001#10
  | .result => 0x002#10
  | .errbyte => 0x003#10
  | .opc => 0x004#10
  | .lenf => 0x005#10
  | .nbytes => 0x006#10
  | .seed => 0x007#10
  | .crc => 0x008#10
  | .rxcrc => 0x009#10
  | .variant => 0x00A#10
  | .buf i => BitVec.ofNat 10 (0x100 + i)

/-- The register a HOST32 word names: none if a reserved bit is set or the number is unmapped (30_encoding R92). -/
def selectReg (rsv : BitVec 5) (reg : BitVec 10) : Option Reg :=
  if rsv = 0#5 then Reg.ofNumber reg else none

/-- The 16-bit registers (10_state R22); every other register has 8 bits. -/
def Reg.isWide : Reg → Bool
  | .nbytes | .seed | .crc | .rxcrc => true
  | .cmd | .status | .result | .errbyte | .opc | .lenf | .variant | .buf _ => false

/-- The read-only registers (44_host_access R216). -/
def Reg.isReadOnly : Reg → Bool
  | .status | .result | .errbyte | .lenf | .crc | .rxcrc | .variant => true
  | .cmd | .opc | .nbytes | .seed | .buf _ => false

/-- The registers a read answers with an unspecified value while BUSY = 1 (44_host_access R219). -/
def Reg.isHiddenWhileBusy : Reg → Bool
  | .result | .errbyte | .lenf | .crc | .rxcrc | .buf _ => true
  | .cmd | .status | .opc | .nbytes | .seed | .variant => false

/-- SEND and RECV accept an even payload length from 2 to 510 bytes (41_frame_send R141, 42_frame_recv R171). -/
def lengthOk (n : Nat) : Bool :=
  decide (n % 2 = 0 ∧ Config.payloadMinBytes ≤ n ∧ n ≤ 2 * Config.payloadMaxWords)

/-- The length field of an `n`-byte payload, `n/2 - 1` (30_encoding R99). -/
def lenField (n : Nat) : Byte := BitVec.ofNat 8 (n / 2 - 1)

/-- `lo8` (00_scope R11). -/
def lo8 (v : Half) : Byte := v.extractLsb' 0 8

/-- `hi8` (00_scope R11). -/
def hi8 (v : Half) : Byte := v.extractLsb' 8 8

/-- Two received checksum bytes, low byte first (30_encoding R101). -/
def le16 (c0 c1 : Byte) : Half := c1 ++ c0

/-- `LE32` (43_client_od_layer R201). -/
def le32 (b0 b1 b2 b3 : Byte) : Word := b3 ++ b2 ++ b1 ++ b0

/-- The command a code written to CMD starts (30_encoding R94); none for an illegal code (R95). -/
def commandOfCode (code : Byte) : Option Command :=
  if code = 0x01#8 then some .crcRun
  else if code = 0x02#8 then some .send
  else if code = 0x03#8 then some .recv
  else none

/-- A command's first state (44_host_access R217). -/
def firstStateOf : Command → St
  | .crcRun => .c1
  | .send => .s1
  | .recv => .r1

end Sys2Proof.Machine
end

