-- ==== Sys2Proof/Machine/Crc.lean ====
section
/-!
DEFINITION. The CRC engine: five pure functions (40_crc R120 to R125), and the word form of R127.
-/

namespace Sys2Proof.Machine

/-- One bit step (40_crc R120). -/
def crcBit (c : Half) : Half :=
  if c.getLsbD 15 then (c <<< 1) ^^^ Config.crcPoly else c <<< 1

/-- `crc_bit` applied `n` times. -/
def crcBits : Nat → Half → Half
  | 0, c => c
  | n + 1, c => crcBits n (crcBit c)

/-- One byte step: the byte enters at the top (40_crc R121). -/
def crcStep (c : Half) (b : Byte) : Half :=
  crcBits 8 (c ^^^ (b.setWidth 16 <<< 8))

/-- The CRC of a byte sequence from a seed (40_crc R122). -/
def compute (seed : Half) : List Byte → Half
  | [] => seed
  | b :: bs => compute (crcStep seed b) bs

/-- The pair swap (40_crc R124). -/
def swapPairs : List Byte → List Byte
  | a :: b :: rest => b :: a :: swapPairs rest
  | rest => rest

/-- The frame check sequence (40_crc R125, R126). -/
def fcs (opc lenf : Byte) (p : List Byte) : Half :=
  compute Config.fcsSeed ([opc, lenf] ++ swapPairs p)

/-- The bytes of a frame in wire order: opcode, length field, payload, checksum low byte first (30_encoding R97). -/
def frameBytes (opc : Byte) (p : List Byte) : List Byte :=
  let l := lenField p.length
  let c := fcs opc l p
  [opc, l] ++ p ++ [lo8 c, hi8 c]

/-- One 16-bit word step: the whole word enters at once, sixteen bit steps follow (40_crc R127). -/
def crcWordStep (c w : Half) : Half := crcBits 16 (c ^^^ w)

/-- The payload as little-endian words (40_crc R127). -/
def payloadWords : List Byte → List Half
  | a :: b :: rest => le16 a b :: payloadWords rest
  | _ => []

/-- The frame check sequence over 16-bit words: a big-endian header, little-endian payload words (40_crc R127). -/
def fcsWords (opc lenf : Byte) (p : List Byte) : Half :=
  ((opc ++ lenf : Half) :: payloadWords p).foldl crcWordStep Config.fcsSeed

end Sys2Proof.Machine
end

