-- ==== Sys2Proof/Machine/Ops.lean ====
section
/-!
DEFINITION. The named operations: BUF (20_memory R62), the register reads and writes, the two transport transactions
(R70, R71), the end of a command (60_exceptions R240), the fault (R248), the command start (44_host_access R217) and
reset (70_reset R265).
-/

namespace Sys2Proof.Machine

/-! ## The payload buffer -/

/-- The canonical form: addresses strictly rising and below 510. A listed byte is a specified one; an unlisted address
holds no specified byte, so no entry equals what an unlisted address reads as (log entry 5). -/
abbrev Memory.wf (m : Memory) : Prop :=
  m.Pairwise (fun c d => c.1 < d.1) ∧ ∀ c ∈ m, c.1 < Config.bufBytes

/-- The specified byte at an address, if it has one. -/
def Memory.lookup : Memory → Nat → Option Byte
  | [], _ => none
  | c :: rest, i => if c.1 = i then some c.2 else Memory.lookup rest i

/-- Put a byte at an address, keeping the addresses rising. -/
def Memory.insert (i : Nat) (v : Byte) : Memory → Memory
  | [] => [(i, v)]
  | c :: rest =>
    if i < c.1 then (i, v) :: c :: rest
    else if i = c.1 then (i, v) :: rest
    else c :: Memory.insert i v rest

/-- `BUF[i] <- v`. The buffer has 510 bytes; no rule writes outside it (20_memory R62; log entry 28). -/
def Memory.writeByte (i : Nat) (v : Byte) (m : Memory) : Memory :=
  if i < Config.bufBytes then m.insert i v else m

/-- `MemWrite(i, n, bs)` (00_scope R12). -/
def Memory.writeBytes (i : Nat) : List Byte → Memory → Memory
  | [], m => m
  | v :: vs, m => Memory.writeBytes (i + 1) vs (m.writeByte i v)

/-- `BUF[i]`: the byte last written there, or the unspecified byte it has held since reset (10_state R47). -/
def Block.readBuf (b : Block) (i : Nat) : Byte :=
  (b.buf.lookup i).getD (Config.bufByte b.epoch i)

/-- `MemRead(i, n)` (00_scope R12). -/
def Block.memRead (b : Block) (i n : Nat) : List Byte :=
  (List.range n).map fun k => b.readBuf (i + k)

/-- The payload of the command in progress, `BUF[0..N)`. -/
def Block.payload (b : Block) : List Byte := b.memRead 0 b.nbytes.toNat

/-! ## Registers -/

/-- `zext_16(REG[r])` (44_host_access R215). CMD reads 0x0000 (R220) and VARIANT is hardwired (10_state R38). -/
def Block.readReg (b : Block) : Reg → Half
  | .cmd => 0x0000#16
  | .status => b.statusByte.setWidth 16
  | .result => b.result.toByte.setWidth 16
  | .errbyte => b.errbyte.setWidth 16
  | .opc => b.opc.setWidth 16
  | .lenf => b.lenfReg.setWidth 16
  | .nbytes => b.nbytes
  | .seed => b.seed
  | .crc => b.crc
  | .rxcrc => b.rxcrc
  | .variant => Config.variantId.setWidth 16
  | .buf i => (b.readBuf i).setWidth 16

/-- The end of a command (60_exceptions R240). -/
def Block.finish (code : ResultCode) (b : Block) : Block :=
  { b with result := code, ok := decide (code = .ok), done := true, st := .idle }

/-- The start of a command (44_host_access R217): an illegal code ends at once with ILLEGAL_COMMAND. -/
def Block.startCommand (code : Byte) (b : Block) : Block :=
  let b := { b with cmd := code, result := .ok, errbyte := 0x00#8, done := false, ok := false }
  match commandOfCode code with
  | none => Block.finish .illegalCommand { b with errbyte := code }
  | some c => { b with cur := c, st := firstStateOf c }

/-- A fault (60_exceptions R248): recorded in STATUS.FAULT, nothing else changes. -/
def Block.raiseFault (b : Block) : Block := { b with fault := true }

/-- `REG[r] <- v` of an idle block (44_host_access R216): an 8-bit register takes `v[7:0]`, a write to CMD starts a
command, a read-only register ignores the write. -/
def Block.writeReg (b : Block) (v : Half) : Reg → Block
  | .cmd => b.startCommand (lo8 v)
  | .opc => { b with opc := lo8 v }
  | .nbytes => { b with nbytes := v }
  | .seed => { b with seed := v }
  | .buf i => { b with buf := b.buf.writeByte i (lo8 v) }
  | .status | .result | .errbyte | .lenf | .crc | .rxcrc | .variant => b

/-! ## Moves of the state machine -/

/-- `st <- S`. -/
def State.goto (st : St) (s : State) : State := { s with block.st := st }

/-- `raise Finish(code)`. -/
def State.finish (code : ResultCode) (s : State) : State := { s with block := s.block.finish code }

/-- `ERRBYTE <- v; raise Finish(code)`. -/
def State.finishWith (code : ResultCode) (v : Byte) (s : State) : State :=
  State.finish code { s with block.errbyte := v }

/-- `lenf <- l; LENF <- l` (41_frame_send R144, 42_frame_recv R174). -/
def State.withLenf (l : Byte) (s : State) : State := { s with block.lenf := l, block.lenfReg := l }

/-- `CRC <- c`, which the engine worked out in `fcs_acc` (10_state R44; log entry 10). -/
def State.withCrc (c : Half) (s : State) : State := { s with block.crc := c, block.fcsAcc := c }

/-- Reset (70_reset R265, R266): every register of the block, wherever the command in progress stood; a transaction in
progress is abandoned with it. The streams, the environment's answers and the controller are untouched. -/
def State.applyReset (s : State) : State :=
  { s with block := Block.reset (s.block.epoch + 1), link.unanswered := false }

/-- The environment flushes the receive stream (70_reset R269). -/
def State.flush (s : State) : State := { s with link.rxStream := [] }

/-! ## Transport transactions -/

/-- The environment's next answer to a transmit transaction. -/
def State.nextTxAnswer (s : State) : TxAnswer :=
  match s.link.txAnswers with
  | a :: _ => a
  | [] => Config.txAnswer s.draws

/-- The state once that answer is taken. -/
def State.dropTxAnswer (s : State) : State :=
  match s.link.txAnswers with
  | _ :: rest => { s with link.txAnswers := rest }
  | [] => { s with draws := s.draws + 1 }

/-- The environment's next answer to a receive transaction. -/
def State.nextRxAnswer (s : State) : RxAnswer :=
  match s.link.rxAnswers with
  | a :: _ => a
  | [] => Config.rxAnswer s.draws

/-- The state once that answer is taken. -/
def State.dropRxAnswer (s : State) : State :=
  match s.link.rxAnswers with
  | _ :: rest => { s with link.rxAnswers := rest }
  | [] => { s with draws := s.draws + 1 }

/-- How a transmit transaction ends (20_memory R70); `unanswered`: not at all (70_reset R281 (a)). -/
inductive TxOutcome where
  | accepted
  | writeFail
  | unanswered
  deriving DecidableEq, Repr

/-- How a receive transaction ends (20_memory R71); `unanswered`: not at all (70_reset R281 (a)). -/
inductive RxOutcome where
  | bytes (bs : List Byte)
  | timeout
  | unanswered
  deriving DecidableEq, Repr

/-- `TxGroup(bs)` (20_memory R70): how it ended, and the state after. A transaction the environment never answers stays the
one in progress (93 U7). -/
def txGroup (bs : List Byte) (s : State) : TxOutcome × State :=
  if s.link.unanswered then (.unanswered, s)
  else
    let t := s.dropTxAnswer
    match s.nextTxAnswer with
    | .accepted => (.accepted, { t with link.txStream := t.link.txStream ++ bs })
    | .writeFail sent => (.writeFail, { t with link.txStream := t.link.txStream ++ bs.take sent })
    | .never => (.unanswered, { t with link.unanswered := true })

/-- The next `n` bytes of the receive stream: those the transport holds, then those the peer sends while the block
waits, which are free (20_memory R71). -/
def State.nextRxBytes (n : Nat) (s : State) : List Byte :=
  s.link.rxStream.take n ++
    (List.range (n - s.link.rxStream.length)).map fun k => Config.rxByte s.draws k

/-- `RxGroup(n)` answered with bytes. -/
def State.takeRxBytes (n : Nat) (s : State) : State :=
  { s with link.rxStream := s.link.rxStream.drop n, draws := s.draws + 1 }

/-- `RxGroup(n)` (20_memory R71): how it ended, with the `n` bytes, and the state after. A transaction the environment never
answers stays the one in progress (93 U7). -/
def rxGroup (n : Nat) (s : State) : RxOutcome × State :=
  if s.link.unanswered then (.unanswered, s)
  else
    let t := s.dropRxAnswer
    match s.nextRxAnswer with
    | .bytes => (.bytes (t.nextRxBytes n), t.takeRxBytes n)
    | .timeout lost => (.timeout, { t with link.rxStream := t.link.rxStream.drop lost })
    | .never => (.unanswered, { t with link.unanswered := true })

/-- One transmit transaction of a step. `written` is what the step writes to the registers whether the group is accepted or
fails; `TRANSPORT_WRITE` ends the command if it fails (60_exceptions R236). A step whose transaction is never answered
does not happen (20_memory R75, 70_reset R266). -/
def transmit (bs : List Byte) (written next : State → State) (s : State) : State :=
  match txGroup bs s with
  | (.accepted, t) => next (written t)
  | (.writeFail, t) => (written t).finish .transportWrite
  | (.unanswered, t) => t

/-- One receive transaction of a step: `TIMEOUT` ends the command if it fails (60_exceptions R236). -/
def receive (n : Nat) (next : List Byte → State → State) (s : State) : State :=
  match rxGroup n s with
  | (.bytes bs, t) => next bs t
  | (.timeout, t) => t.finish .timeout
  | (.unanswered, t) => t

/-- One one-byte receive transaction. -/
def receiveByte (next : Byte → State → State) (s : State) : State :=
  receive 1 (fun bs => next (bs.headD 0x00#8)) s

end Sys2Proof.Machine
end

