-- ==== Sys2Proof/Machine/HostAccess.lean ====
section
/-!
DEFINITION. Controller accesses: HOST_RD, HOST_WR and the writes to CMD (44_host_access R215 to R220).
-/

namespace Sys2Proof.Machine

/-- The value an unspecified read of `r` returns: any value, the unused high bits of an 8-bit register 0 (R219). -/
def hiddenRead (r : Reg) (draw : Nat) : Half :=
  if r.isWide then Config.busyRead draw else (lo8 (Config.busyRead draw)).setWidth 16

/-- `HOST_RD` (R215): what names no register reads 0x0000 (R220). -/
def hostRead (sel : Option Reg) (s : State) : State :=
  match sel with
  | none => { s with ctl.data := 0x0000#16 }
  | some r =>
    if s.busy && r.isHiddenWhileBusy then { s with ctl.data := hiddenRead r s.draws, draws := s.draws + 1 }
    else { s with ctl.data := s.block.readReg r }

/-- `HOST_WR` (R216): ignored where it names no register or a read-only one (R220), a fault while busy (R218), else the
write. -/
def hostWrite (sel : Option Reg) (v : Half) (s : State) : State :=
  match sel with
  | none => s
  | some r =>
    if r.isReadOnly then s
    else if s.busy then { s with block := s.block.raiseFault }
    else { s with block := s.block.writeReg v r }

/-- A write of `hi ‖ code` to CMD (30_encoding R93). -/
def commandWrite (hi code : Byte) (s : State) : State :=
  hostWrite (some .cmd) (hi ++ code) s

/-- HOST_RD (44_host_access R215). -/
def execHostRd (rsv : BitVec 5) (reg : BitVec 10) (_data : Half) (s : State) : Host.Outcome State Fault Refusal :=
  .next (hostRead (selectReg rsv reg) s)

/-- HOST_WR (44_host_access R216). -/
def execHostWr (rsv : BitVec 5) (reg : BitVec 10) (data : Half) (s : State) : Host.Outcome State Fault Refusal :=
  .next (hostWrite (selectReg rsv reg) data s)

/-- CRC_RUN: the command starts (40_crc R129, 44_host_access R217); its step is `stepC1`. -/
def execCrcRun (hi : Byte) (s : State) : Host.Outcome State Fault Refusal :=
  .next (commandWrite hi 0x01#8 s)

/-- SEND: the command starts (41_frame_send R148, 44_host_access R217); its steps are `stepS1` to `stepS6`. -/
def execSend (hi : Byte) (s : State) : Host.Outcome State Fault Refusal :=
  .next (commandWrite hi 0x02#8 s)

/-- RECV: the command starts (42_frame_recv R178, 44_host_access R217); its steps are `stepR1` to `stepR6`. -/
def execRecv (hi : Byte) (s : State) : Host.Outcome State Fault Refusal :=
  .next (commandWrite hi 0x03#8 s)

/-- CMD_ILLEGAL: an illegal code finishes at once with ILLEGAL_COMMAND (30_encoding R95). -/
def execCmdIllegal (hi code : Byte) (s : State) : Host.Outcome State Fault Refusal :=
  .next (commandWrite hi code s)

end Sys2Proof.Machine
end

