-- ==== Sys2Proof/Machine/Client.lean ====
section
/-!
DEFINITION. The client layer and the pseudo-instructions (43_client_od_layer R200 to R206, 30_encoding R108, R109): a
request is a controller program of HOST32 accesses. The meanings of READ_OBJECT and WRITE_OBJECT queue it.
-/

namespace Sys2Proof.Machine

/-- The HOST32 word `encode` gives an access. -/
def accessOf (i : Instr) : List CtlOp :=
  match encode i with
  | .host32 w => [.access w]
  | .wire8 _ => []

/-- `RD <reg>` (30_encoding R108). -/
def opRd (r : Reg) : List CtlOp := accessOf (.hostRd 0#5 r.number 0x0000#16)

/-- `WR <reg>, <v>` (30_encoding R108). -/
def opWr (r : Reg) (v : Half) : List CtlOp := accessOf (.hostWr 0#5 r.number v)

/-- `LOADBUF b0, ..., bk` from element `i` on (30_encoding R109). -/
def loadBuf (i : Nat) : List Byte → List CtlOp
  | [] => []
  | b :: bs => opWr (.buf i) (b.setWidth 16) ++ loadBuf (i + 1) bs

/-- `FRAME_SEND opc, b0, ..., bk` (30_encoding R109). -/
def frameSend (opc : Byte) (bs : List Byte) : List CtlOp :=
  opWr .opc (opc.setWidth 16) ++ opWr .nbytes (BitVec.ofNat 16 bs.length) ++ loadBuf 0 bs
    ++ accessOf (.send 0x00#8) ++ [.wait]

/-- `FRAME_RECV n` (30_encoding R109). -/
def frameRecv (n : Half) : List CtlOp :=
  opWr .nbytes n ++ accessOf (.recv 0x00#8) ++ [.wait]

/-- `CRC seed, b0, ..., bk` (30_encoding R109). -/
def crcProgram (seed : Half) (bs : List Byte) : List CtlOp :=
  opWr .seed seed ++ opWr .nbytes (BitVec.ofNat 16 bs.length) ++ loadBuf 0 bs
    ++ accessOf (.crcRun 0x00#8) ++ [.wait]

/-- A request's wire opcode (43_client_od_layer R202, R204). -/
def Request.opcode : Request → Byte
  | .read => Config.opcReadObject
  | .write => Config.opcWriteObject

/-- A 32-bit value as four bytes, low byte first (43_client_od_layer R201). -/
def le32Bytes (v : Word) : List Byte :=
  [v.extractLsb' 0 8, v.extractLsb' 8 8, v.extractLsb' 16 8, v.extractLsb' 24 8]

/-- The read request's payload: index-lo, index-hi, subindex, node-id (43_client_od_layer R202). -/
def readPayload (c : Client) : List Byte :=
  [lo8 c.index, hi8 c.index, c.subindex, c.nodeId]

/-- The write request's payload: the address, then the value (43_client_od_layer R204). -/
def writePayload (c : Client) : List Byte :=
  readPayload c ++ le32Bytes c.value

/-- `read_object` as a controller program (43_client_od_layer R203). -/
def readProgram (c : Client) : List CtlOp :=
  frameSend Config.opcReadObject (readPayload c) ++ [.checkResult] ++ frameRecv 8#16 ++ [.checkResult]
    ++ (List.range 8).map CtlOp.collect ++ [.endRead]

/-- `write_object` as a controller program (43_client_od_layer R205). -/
def writeProgram (c : Client) : List CtlOp :=
  frameSend Config.opcWriteObject (writePayload c) ++ [.checkResult] ++ frameRecv 4#16 ++ [.checkResult]
    ++ (List.range 4).map CtlOp.collect ++ [.endWrite]

/-- The client issues a request: its program goes before what the controller had still to do, the previous request's
response and outcome are forgotten. -/
def issueRequest (program : List CtlOp) (s : State) : State :=
  { s with
    ctl.program := program ++ s.ctl.program
    ctl.client.bytes := []
    ctl.client.outcome := none }

/-- READ_OBJECT: the client issues a read request (43_client_od_layer R202, R203). -/
def execReadObject (s : State) : Host.Outcome State Fault Refusal :=
  .next (issueRequest (readProgram s.ctl.client) s)

/-- WRITE_OBJECT: the client issues a write request (43_client_od_layer R204, R205). -/
def execWriteObject (s : State) : Host.Outcome State Fault Refusal :=
  .next (issueRequest (writeProgram s.ctl.client) s)

/-! ## The client's own operations -/

/-- The end of a request's program. -/
def CtlOp.isEnd : CtlOp → Bool
  | .endRead | .endWrite => true
  | .access _ | .wait | .request _ | .checkResult | .collect _ => false

/-- What the controller does after the request in progress. -/
def dropRequest (program : List CtlOp) : List CtlOp :=
  (program.dropWhile fun op => !op.isEnd).drop 1

/-- WAIT: read STATUS; while bit 0 of the value is 1 the operation stays (30_encoding R109). `again` is the program with
the WAIT still in it. -/
def doWait (again : List CtlOp) (s : State) : State :=
  let t := hostRead (some .status) s
  if t.ctl.data.getLsbD 0 then { t with ctl.program := again } else t

/-- Read RESULT; a request whose exchange failed ends with that result (43_client_od_layer R203, R205). -/
def doCheckResult (s : State) : State :=
  let t := hostRead (some .result) s
  if t.ctl.data = 0x0000#16 then t
  else
    { t with
      ctl.program := dropRequest t.ctl.program
      ctl.client.outcome := some (.failed (lo8 t.ctl.data)) }

/-- Read BUF[i] and keep the byte (43_client_od_layer R203, R205). -/
def doCollect (i : Nat) (s : State) : State :=
  let t := hostRead (Reg.ofNumber (Reg.buf i).number) s
  { t with ctl.client.bytes := t.ctl.client.bytes ++ [lo8 t.ctl.data] }

/-- `LE32` of the four response bytes from index `i` on (43_client_od_layer R201). -/
def responseField (bs : List Byte) (i : Nat) : Word :=
  le32 (bs.getD i 0x00#8) (bs.getD (i + 1) 0x00#8) (bs.getD (i + 2) 0x00#8) (bs.getD (i + 3) 0x00#8)

/-- The outcome of a request whose exchange ended OK: the device's error code, or `good` where it is zero (R206). -/
def endOutcome (bs : List Byte) (good : ClientOutcome) : ClientOutcome :=
  if responseField bs 0 = 0#32 then good else .deviceError (responseField bs 0)

/-- The read response: error code, then value (43_client_od_layer R202, R203). -/
def doEndRead (s : State) : State :=
  { s with
    ctl.client.outcome :=
      some (endOutcome s.ctl.client.bytes (.value (responseField s.ctl.client.bytes 4))) }

/-- The write response: error code (43_client_od_layer R204, R205). -/
def doEndWrite (s : State) : State :=
  { s with ctl.client.outcome := some (endOutcome s.ctl.client.bytes .written) }

end Sys2Proof.Machine
end

