-- ==== Sys2Proof/Machine/CrcRun.lean ====
section
/-!
DEFINITION. The command CRC_RUN's one step (40_crc R129).
-/

namespace Sys2Proof.Machine

/-- State C1: compute the CRC of `BUF[0..N)` from SEED, in index order, and finish (40_crc R129). -/
def stepC1 (s : State) : State :=
  if s.block.nbytes.toNat > Config.bufBytes then s.finish .badLength
  else
    State.finish .ok (s.withCrc (compute s.block.seed s.block.payload))

end Sys2Proof.Machine
end

