-- ==== Sys2Proof/Machine/Recv.lean ====
section
/-!
DEFINITION. The command RECV: six steps, one transport transaction each (42_frame_recv R171 to R178).
-/

namespace Sys2Proof.Machine

/-- R1: check the length, receive the opcode, which must be the response opcode (R171, R172). -/
def stepR1 (s : State) : State :=
  if lengthOk s.block.nbytes.toNat then
    receiveByte (fun o t =>
      if o ≠ Config.responseOpcode then t.finishWith .unexpectedOpcode o
      else t.goto .r2) s
  else s.finish .badLength

/-- R2: transmit READY (R173). -/
def stepR2 (s : State) : State :=
  transmit [Config.tokenO] id (State.goto .r3) s

/-- R3: receive the length byte, which must be `N/2 - 1` (R174). -/
def stepR3 (s : State) : State :=
  receiveByte (fun l t =>
    let t := t.withLenf l
    if l ≠ lenField t.block.nbytes.toNat then t.finishWith .lengthMismatch l
    else t.goto .r4) s

/-- The bytes `BUF[0..n)` holds after a timeout in R4: one free value each (R175, 93 U2). -/
def timeoutBytes (draw n : Nat) : List Byte :=
  (List.range n).map fun i => Config.timeoutByte draw i

/-- R4: receive the payload into BUF; a timeout leaves `BUF[0..N)` unspecified (R175). -/
def stepR4 (s : State) : State :=
  let n := s.block.nbytes.toNat
  match rxGroup n s with
  | (.bytes bs, t) => State.goto .r5 { t with block.buf := t.block.buf.writeBytes 0 bs }
  | (.timeout, t) =>
    State.finish .timeout
      { t with block.buf := t.block.buf.writeBytes 0 (timeoutBytes t.draws n), draws := t.draws + 1 }
  | (.unanswered, t) => t

/-- R5: receive the checksum, compute the local one (R176). -/
def stepR5 (s : State) : State :=
  receive 2 (fun bs t =>
    let t := t.withCrc (fcs Config.responseOpcode t.block.lenf t.block.payload)
    State.goto .r6 { t with block.rxcrc := le16 (bs.getD 0 0x00#8) (bs.getD 1 0x00#8) }) s

/-- R6: transmit FAIL or OK and finish (R177). -/
def stepR6 (s : State) : State :=
  if s.block.rxcrc ≠ s.block.crc then transmit [Config.tokenF] id (State.finish .checksumMismatch) s
  else transmit [Config.tokenO] id (State.finish .ok) s

end Sys2Proof.Machine
end

