-- ==== Sys2Proof/Machine/Send.lean ====
section
/-!
DEFINITION. The command SEND: six steps, one transport transaction each (41_frame_send R141 to R148).
-/

namespace Sys2Proof.Machine

/-- S1: check the length, transmit the opcode (R141, R142). -/
def stepS1 (s : State) : State :=
  if lengthOk s.block.nbytes.toNat then transmit [s.block.opc] id (State.goto .s2) s
  else s.finish .badLength

/-- S2: receive the ready-ack (R143). -/
def stepS2 (s : State) : State :=
  receiveByte (fun a t =>
    if a = Config.tokenF then t.finishWith .deviceNotReady a
    else if a ≠ Config.tokenO then t.finishWith .unexpectedAck a
    else t.goto .s3) s

/-- S3: transmit the length field (R144). -/
def stepS3 (s : State) : State :=
  let l := lenField s.block.nbytes.toNat
  transmit [l] (State.withLenf l) (State.goto .s4) s

/-- S4: transmit the payload (R145). -/
def stepS4 (s : State) : State :=
  transmit s.block.payload id (State.goto .s5) s

/-- S5: compute and transmit the checksum, low byte first (R146). -/
def stepS5 (s : State) : State :=
  let c := fcs s.block.opc s.block.lenf s.block.payload
  transmit [lo8 c, hi8 c] (State.withCrc c) (State.goto .s6) s

/-- S6: receive the end-ack (R147). -/
def stepS6 (s : State) : State :=
  receiveByte (fun e t =>
    if e ≠ Config.tokenO then t.finishWith .deviceRejectedFrame e
    else t.finish .ok) s

end Sys2Proof.Machine
end

