-- ==== Sys2Proof/Machine/Wire.lean ====
section
/-!
DEFINITION. The block's step (10_state R41 to R43), the arrival of a byte from the peer, and the meanings of the one-byte
rows the peer sends: RESPONSE, TOKEN_O, TOKEN_F.
-/

namespace Sys2Proof.Machine

/-- One step of the block: what `st` says (10_state R42); an idle block does not step (R43). -/
def blockStep (s : State) : State :=
  match s.block.st with
  | .idle => s
  | .c1 => stepC1 s
  | .s1 => stepS1 s
  | .s2 => stepS2 s
  | .s3 => stepS3 s
  | .s4 => stepS4 s
  | .s5 => stepS5 s
  | .s6 => stepS6 s
  | .r1 => stepR1 s
  | .r2 => stepR2 s
  | .r3 => stepR3 s
  | .r4 => stepR4 s
  | .r5 => stepR5 s
  | .r6 => stepR6 s

/-- The block's next step makes a transport transaction (41_frame_send R148, 42_frame_recv R178): in S1 and R1 once the
length is accepted (R141, R171). -/
def State.transacts (s : State) : Bool :=
  match s.block.st with
  | .s1 | .r1 => lengthOk s.block.nbytes.toNat
  | .s2 | .s3 | .s4 | .s5 | .s6 | .r2 | .r3 | .r4 | .r5 | .r6 => true
  | .idle | .c1 => false

/-- The block's next step asks for a one-byte group that can still be answered: an ack (S2, S6), the opcode (R1, once the
length is accepted), the length byte (R3). -/
def State.awaitsByte (s : State) : Bool :=
  !s.link.unanswered &&
    match s.block.st with
    | .s2 | .s6 | .r3 => true
    | .r1 => lengthOk s.block.nbytes.toNat
    | .idle | .c1 | .s1 | .s3 | .s4 | .s5 | .r2 | .r4 | .r5 | .r6 => false

/-- A byte reaches the transport, which holds it (20_memory R80). -/
def State.holdByte (b : Byte) (s : State) : State :=
  { s with link.rxStream := s.link.rxStream ++ [b] }

/-- The environment's next receive answer is bytes. -/
def State.answerBytes (s : State) : State :=
  { s with link.rxAnswers := .bytes :: s.link.rxAnswers }

/-- A byte the peer sends arrives. It goes to the end of the receive stream (20_memory R79 (c), R80). If the block waits for
a one-byte group, the environment answers that group now with the next byte of the stream (R71; a stale byte first,
R81) and the block takes its step; otherwise the byte is held (log entry 16). -/
def deliverByte (b : Byte) (s : State) : State :=
  if s.awaitsByte then blockStep (s.holdByte b).answerBytes else s.holdByte b

/-- RESPONSE: the response opcode arrives (42_frame_recv R172). -/
def execResponse (s : State) : Host.Outcome State Fault Refusal :=
  .next (deliverByte Config.responseOpcode s)

/-- TOKEN_O: the byte 'O' arrives, READY at the ready-ack and OK at the end-ack (30_encoding R102 to R104). -/
def execTokenO (s : State) : Host.Outcome State Fault Refusal :=
  .next (deliverByte Config.tokenO s)

/-- TOKEN_F: the byte 'F' arrives, NOT_READY at the ready-ack and FAIL at the end-ack (30_encoding R102 to R104). -/
def execTokenF (s : State) : Host.Outcome State Fault Refusal :=
  .next (deliverByte Config.tokenF s)

end Sys2Proof.Machine
end

