-- ==== Sys2Proof/Machine/Dispatch.lean ====
section
/-!
DEFINITION. The meaning of every instruction: one arm for each constructor of Instr.
-/

namespace Sys2Proof.Machine

def exec (i : Instr) (s : State) : Host.Outcome State Fault Refusal :=
  match i with
  | .hostRd rsv reg data => Sys2Proof.Machine.execHostRd rsv reg data s
  | .hostWr rsv reg data => Sys2Proof.Machine.execHostWr rsv reg data s
  | .crcRun hi => Sys2Proof.Machine.execCrcRun hi s
  | .send hi => Sys2Proof.Machine.execSend hi s
  | .recv hi => Sys2Proof.Machine.execRecv hi s
  | .cmdIllegal hi code => Sys2Proof.Machine.execCmdIllegal hi code s
  | .response => Sys2Proof.Machine.execResponse s
  | .readObject => Sys2Proof.Machine.execReadObject s
  | .writeObject => Sys2Proof.Machine.execWriteObject s
  | .tokenO => Sys2Proof.Machine.execTokenO s
  | .tokenF => Sys2Proof.Machine.execTokenF s

end Sys2Proof.Machine
end

