-- ==== Sys2Proof/Machine/Agents.lean ====
section
/-!
DEFINITION. Fetching: the moves of the three agents (00_scope R8) and the order they come in (20_memory R79).
-/

namespace Sys2Proof.Machine

/-- The controller performs the next operation of its program; with an empty program it does nothing. -/
def controllerMove (s : State) : Host.Outcome State Fault Refusal :=
  match s.ctl.program with
  | [] => .next s
  | op :: rest =>
    let t := { s with ctl.program := rest }
    match op with
    | .access w => exec (decodeHost w) t
    | .wait => .next (doWait s.ctl.program t)
    | .request r =>
      match decodeRequest r.opcode with
      | .ok i => exec i t
      | .error _ => .next t
    | .checkResult => .next (doCheckResult t)
    | .collect i => .next (doCollect i t)
    | .endRead => .next (doEndRead t)
    | .endWrite => .next (doEndWrite t)

/-- A byte from the peer: its row's meaning where the table has one, else the same arrival (30_encoding R98, R103,
R104; 42_frame_recv R172, R174). -/
def wireMove (b : Byte) (s : State) : Host.Outcome State Fault Refusal :=
  match decodeReceived b with
  | .ok i => exec i s
  | .error _ => .next (deliverByte b s)

/-- The move an event says. -/
def eventMove (e : Event) (s : State) : Host.Outcome State Fault Refusal :=
  match e with
  | .controller => controllerMove s
  | .block => .next (blockStep s)
  | .wire b => wireMove b s
  | .flush => .next s.flush
  | .reset => .next s.applyReset

/-- The block's turn, after which the controller has a free number of moves. -/
def blockTurn (s : State) : State :=
  blockStep { s with turns := Config.controllerTurns s.draws, draws := s.draws + 1 }

/-- The move where no event is scheduled: the agent that can move does. Where both the block and the controller can, the
controller makes a free number of moves between two block steps (20_memory R79 (d), 44_host_access R223). The number is
finite, so the block is not passed over for ever: DESIGN CHOICE, no rule states that fairness in so many words; R221,
R280 and R281 rest on it (log entry 33). -/
def freeMove (s : State) : Host.Outcome State Fault Refusal :=
  if s.busy then
    match s.ctl.program, s.turns with
    | [], _ => .next (blockStep s)
    | _ :: _, 0 => .next (blockTurn s)
    | _ :: _, k + 1 => controllerMove { s with turns := k }
  else controllerMove s

/-- One move of the machine. -/
def move (s : State) : Host.Outcome State Fault Refusal :=
  match s.sched with
  | e :: rest => eventMove e { s with sched := rest }
  | [] => freeMove s

/-- The machine under a PROTOCOL_VARIANT: only CANONICAL has a meaning (40_crc R133). -/
def stepUnder (v : Variant) (s : State) : Host.Outcome State Fault Refusal :=
  if v = .canonical then move s else .refused (.variantNotAdmitted v)

/-- Place a code word where the very next step fetches it: an access word or a client request at the head of the
controller's program, with the controller moving next; a byte of the peer as the next event. -/
def placeWord (c : CodeWord) (s : State) : State :=
  match c with
  | .host32 w => { s with ctl.program := .access w :: s.ctl.program, sched := .controller :: s.sched }
  | .wire8 b =>
    if b = Request.read.opcode then
      { s with ctl.program := .request .read :: s.ctl.program, sched := .controller :: s.sched }
    else if b = Request.write.opcode then
      { s with ctl.program := .request .write :: s.ctl.program, sched := .controller :: s.sched }
    else { s with sched := .wire b :: s.sched }

end Sys2Proof.Machine
end

