-- ==== Sys2Proof/Machine/Step.lean ====
section
/-!
DEFINITION. One step of the machine, and placing an instruction where it is fetched next.
-/

namespace Sys2Proof.Machine

/-- One step, under the deployment's PROTOCOL_VARIANT (00_scope R9). -/
def step (s : State) : Host.Outcome State Fault Refusal :=
  stepUnder Config.protocolVariant s

/-- The state with the instruction of `nbits` bits `w` stored where `step` fetches its next one. -/
def State.withFetchWord (s : State) (nbits w : Nat) : State :=
  placeWord (codeWordOfBits nbits w) s

end Sys2Proof.Machine
end

