-- ==== Sys2Proof/Safety.lean ====
section
/-!
DEFINITION. What counts as a faulted run (60_exceptions R248), when results may be read (44_host_access R222), and the
invariant of the block that every step keeps.
-/

namespace Sys2Proof.Machine

/-- The fault a state has recorded. A run is faulted as soon as one of its states has one (60_exceptions R248). -/
def State.recordedFault (s : State) : Option Fault :=
  if s.block.fault then some .writeWhileBusy else none

/-- The controller may read results: BUSY = 0 and DONE = 1 (44_host_access R222, 70_reset R273). -/
def State.resultsReady (s : State) : Prop := s.busy = false ∧ s.block.done = true

/-- The command a state of the state machine belongs to (10_state R42). -/
def commandOfState : St → Option Command
  | .idle => none
  | .c1 => some .crcRun
  | .s1 | .s2 | .s3 | .s4 | .s5 | .s6 => some .send
  | .r1 | .r2 | .r3 | .r4 | .r5 | .r6 => some .recv

/-- The states a command reaches only with an accepted payload length (41_frame_send R141, 42_frame_recv R171). -/
def pastLengthCheck : St → Bool
  | .s2 | .s3 | .s4 | .s5 | .s6 | .r2 | .r3 | .r4 | .r5 | .r6 => true
  | .idle | .c1 | .s1 | .r1 => false

/-- The states in which `lenf` holds the exchange's length field (41_frame_send R144, 42_frame_recv R174). -/
def lenfFixed : St → Bool
  | .s4 | .s5 | .s6 | .r4 | .r5 | .r6 => true
  | .idle | .c1 | .s1 | .s2 | .s3 | .r1 | .r2 | .r3 => false

/-- What ERRBYTE holds beside each result (60_exceptions R236, R241). -/
def errbyteFits (b : Block) : ResultCode → Prop
  | .deviceNotReady => b.errbyte = Config.tokenF
  | .unexpectedAck => b.errbyte ≠ Config.tokenF ∧ b.errbyte ≠ Config.tokenO
  | .deviceRejectedFrame => b.errbyte ≠ Config.tokenO
  | .unexpectedOpcode => b.errbyte ≠ Config.responseOpcode
  | .lengthMismatch => b.errbyte = b.lenfReg
  | .illegalCommand => commandOfCode b.errbyte = none
  | .ok | .checksumMismatch | .timeout | .transportWrite | .badLength => b.errbyte = 0x00#8

/-- The invariant of the block. -/
structure BlockInv (b : Block) : Prop where
  /-- BUF keeps its canonical form (20_memory R62). -/
  bufWf : Memory.wf b.buf
  /-- DONE is never 1 while BUSY is 1 (10_state R26). -/
  doneIdle : b.done = true → b.st = .idle
  /-- OK is 1 exactly when the last finished command's result is `OK` (10_state R27). -/
  okFlag : b.ok = (b.done && decide (b.result = .ok))
  /-- `cur` is the command in progress (10_state R40). -/
  curFits : ∀ c, commandOfState b.st = some c → b.cur = c
  /-- While a command runs, RESULT and ERRBYTE are as the start left them (44_host_access R217). -/
  cleared : b.st ≠ .idle → b.result = .ok ∧ b.errbyte = 0x00#8
  /-- A command past its first step has an accepted length (41_frame_send R141, 42_frame_recv R171). -/
  lengthChecked : pastLengthCheck b.st = true → lengthOk b.nbytes.toNat = true
  /-- `lenf` and LENF are `N/2 - 1` (41_frame_send R144, 42_frame_recv R174). -/
  lenfHeld : lenfFixed b.st = true → b.lenf = lenField b.nbytes.toNat ∧ b.lenfReg = b.lenf
  /-- In S6, CRC is the checksum transmitted (41_frame_send R146). -/
  sentCrc : b.st = .s6 → b.crc = fcs b.opc b.lenf b.payload
  /-- In R6, CRC is the checksum of the payload in BUF (42_frame_recv R176). -/
  receivedCrc : b.st = .r6 → b.crc = fcs Config.responseOpcode b.lenf b.payload
  /-- ERRBYTE beside each result (60_exceptions R241). -/
  errbyteHeld : b.done = true → errbyteFits b b.result
  /-- A RECV that ended OK agreed on the checksum (42_frame_recv R177). -/
  recvAgreed : b.ok = true → b.cur = .recv → b.rxcrc = b.crc

/-- The machine's invariant. -/
structure State.Inv (s : State) : Prop where
  block : BlockInv s.block
  /-- Only a block in the middle of a transaction can be left without an answer (70_reset R281 (a)). -/
  waits : s.link.unanswered = true → s.transacts = true

end Sys2Proof.Machine
end

