-- ==== Sys2Proof/Certificates/Slice0/Obligations.lean ====
section
/-!
DEFINITION. The statements for the provers. OBLIGATIONS.json gives each its rule; a docstring names the rule and, where a
statement rests on a choice of the model, the log entry.
-/

open Sys2Proof Sys2Proof.Machine

/-! ## Encoding and decoding -/

/-- Decoding an encoded well-formed instruction gives it back, every operand at every value (30_encoding R91 to R95, R98,
R102). -/
def Obligations.EncodeThenDecodeReturnsInstr : Prop :=
  ∀ i : Instr, WellFormed i = true → decode (encode i) = .ok i

/-- Every 32-bit word decodes to exactly one well-formed instruction, which encodes to that word. That the decoder is
total is 30_encoding R92; that an instruction keeps the bits its row ignores (DATA of a read, DATA[15:8], the reserved bits),
so that it encodes to its word, is the model's choice: log entry 14. -/
def Obligations.EveryHostWordDecodesBack : Prop :=
  ∀ w : Word, WellFormed (decodeHost w) = true ∧ encode (decodeHost w) = .host32 w

/-- A byte is an instruction exactly when it is the encoding of one of the five one-byte rows; every other byte is
rejected (30_encoding R98, R102). -/
def Obligations.WireByteDecodesExactlyItsRow : Prop :=
  ∀ (b : Byte) (i : Instr), decode (.wire8 b) = .ok i ↔ encode i = .wire8 b

/-- The sample encodings of 30_encoding R110. -/
def Obligations.SampleWordsDecode : Prop :=
  decode (.host32 0x80040010#32) = .ok (.hostWr 0#5 0x004#10 0x0010#16) ∧
  decode (.host32 0x80060004#32) = .ok (.hostWr 0#5 0x006#10 0x0004#16) ∧
  decode (.host32 0x81000040#32) = .ok (.hostWr 0#5 0x100#10 0x0040#16) ∧
  decode (.host32 0x82FD00FF#32) = .ok (.hostWr 0#5 0x2FD#10 0x00FF#16) ∧
  decode (.host32 0x80000002#32) = .ok (.send 0x00#8) ∧
  decode (.host32 0x00010000#32) = .ok (.hostRd 0#5 0x001#10 0x0000#16) ∧
  decode (.host32 0x00080000#32) = .ok (.hostRd 0#5 0x008#10 0x0000#16) ∧
  decode (.host32 0x00090000#32) = .ok (.hostRd 0#5 0x009#10 0x0000#16)

/-! ## Fetching and the order of moves -/

/-- A step runs the decoded instruction: an access word or a client request at the head of the controller's program, with
the word taken off; a byte of the peer that is a row; any other byte of the peer is delivered all the same (log entries
1, 16, 17, 22). -/
def Obligations.StepRunsDecodedInstr : Prop :=
  ∀ (s : State) (evs : List Event),
    (∀ w ops, s.sched = .controller :: evs → s.ctl.program = .access w :: ops →
      step s = exec (decodeHost w) { s with sched := evs, ctl.program := ops }) ∧
    (∀ ops, s.sched = .controller :: evs → s.ctl.program = .request .read :: ops →
      step s = exec .readObject { s with sched := evs, ctl.program := ops }) ∧
    (∀ ops, s.sched = .controller :: evs → s.ctl.program = .request .write :: ops →
      step s = exec .writeObject { s with sched := evs, ctl.program := ops }) ∧
    (∀ b i, s.sched = .wire b :: evs → decodeReceived b = .ok i → step s = exec i { s with sched := evs }) ∧
    (∀ b r, s.sched = .wire b :: evs → decodeReceived b = .error r →
      step s = .next (deliverByte b { s with sched := evs }))

/-- The word placed in a state is what its next step decodes and runs, in that state (log entry 22). -/
def Obligations.PlacedWordIsRunNext : Prop :=
  ∀ (s : State) (nbits w : Nat) (i : Instr),
    decodeTableWord nbits w = some i → step (s.withFetchWord nbits w) = exec i s

/-- The other scheduled events: a block step, which leaves an idle block alone (10_state R43), a flush (70_reset R269), a
reset (R265); a controller with an empty program does nothing. -/
def Obligations.ScheduledEventsMoveTheirAgent : Prop :=
  ∀ (s : State) (evs : List Event),
    (s.sched = .block :: evs → step s = .next (blockStep { s with sched := evs })) ∧
    (s.sched = .block :: evs → s.block.st = .idle → step s = .next { s with sched := evs }) ∧
    (s.sched = .flush :: evs → step s = .next { s with sched := evs, link.rxStream := [] }) ∧
    (s.sched = .reset :: evs → step s = .next ({ s with sched := evs } : State).applyReset) ∧
    (s.sched = .controller :: evs → s.ctl.program = [] → step s = .next { s with sched := evs })

/-- No step faults and none is refused: every state has a next state (60_exceptions R235, R248). -/
def Obligations.EveryStepAnswersNext : Prop :=
  ∀ s : State, ∃ t : State, step s = .next t

/-- A PROTOCOL_VARIANT other than CANONICAL is refused (40_crc R133, 93 U8); the deployment's own is CANONICAL. -/
def Obligations.OtherVariantsAreRefused : Prop :=
  (∀ (v : Variant) (s : State), v ≠ .canonical → stepUnder v s = .refused (.variantNotAdmitted v)) ∧
  ∀ s : State, step s = stepUnder .canonical s

/-! ## Invariants and whole-machine rules -/

/-- Every step keeps the block's invariant (Safety.lean). -/
def Obligations.StepKeepsInvariant : Prop :=
  ∀ s t : State, s.Inv → step s = .next t → t.Inv

/-- The machine after reset meets it. -/
def Obligations.ResetMeetsInvariant : Prop :=
  State.reset.Inv

/-- FAULT is cleared only by reset, and a state with FAULT = 1 counts as faulted (10_state R28). -/
def Obligations.FaultStaysUntilReset : Prop :=
  ∀ s t : State, s.block.fault = true → step s = .next t →
    s.recordedFault = some .writeWhileBusy ∧
    (s.sched.head? ≠ some .reset → t.block.fault = true) ∧
    (s.sched.head? = some .reset → t.block.fault = false)

/-- A step that sets FAULT changes nothing else of the block, and the block was busy (60_exceptions R247, R248). -/
def Obligations.FaultArisesOnlyWhileBusy : Prop :=
  ∀ s t : State, s.block.fault = false → step s = .next t → t.block.fault = true →
    s.busy = true ∧ t.block = { s.block with fault := true } ∧ t.link = s.link

/-- What a block step leaves alone: OPC, NBYTES, SEED (10_state R32, R34, R35), FAULT, CMD, `cur`, the receive-only RXCRC
outside R5, CRC and `fcs_acc` outside C1, S5, R5, LENF and `lenf` outside S3, R3, BUF outside R4 and from N on in R4, the
controller and the schedule. Two clauses are the model's choice and no rule of the spec: that CMD holds a code (log entry
9), and that `fcs_acc` is written in those three states only (log entry 10; 10_state R44 lets it change byte by byte). -/
def Obligations.BlockStepFrame : Prop :=
  ∀ s : State,
    (blockStep s).block.opc = s.block.opc ∧ (blockStep s).block.nbytes = s.block.nbytes ∧
    (blockStep s).block.seed = s.block.seed ∧ (blockStep s).block.fault = s.block.fault ∧
    (blockStep s).block.cmd = s.block.cmd ∧ (blockStep s).block.cur = s.block.cur ∧
    (blockStep s).block.epoch = s.block.epoch ∧
    (s.block.st ≠ .r5 → (blockStep s).block.rxcrc = s.block.rxcrc) ∧
    (s.block.st ≠ .c1 → s.block.st ≠ .s5 → s.block.st ≠ .r5 →
      (blockStep s).block.crc = s.block.crc ∧ (blockStep s).block.fcsAcc = s.block.fcsAcc) ∧
    (s.block.st ≠ .s3 → s.block.st ≠ .r3 →
      (blockStep s).block.lenfReg = s.block.lenfReg ∧ (blockStep s).block.lenf = s.block.lenf) ∧
    (s.block.st ≠ .r4 → ∀ i, (blockStep s).block.readBuf i = s.block.readBuf i) ∧
    (∀ i, s.block.nbytes.toNat ≤ i → (blockStep s).block.readBuf i = s.block.readBuf i) ∧
    (blockStep s).ctl = s.ctl ∧ (blockStep s).sched = s.sched

/-- Every command ends if its transactions are answered: from any state, six block steps leave the block idle unless one of
their transactions is never answered, and CRC_RUN's one step does, with no transaction (70_reset R280, 44_host_access
R221). A transaction that is never answered leaves the block where it is (70_reset R281 (a), 93 U7): the very step whose
transaction gets no answer writes no register and moves no byte, and a later one changes nothing (log entry 31). -/
def Obligations.CommandEndsWithinSixSteps : Prop :=
  ∀ s : State,
    ((blockStep^[6] s).link.unanswered = false → (blockStep^[6] s).busy = false) ∧
    (s.block.st = .c1 → (blockStep s).busy = false) ∧
    (s.transacts = true → (blockStep s).link.unanswered = true →
      (blockStep s).block = s.block ∧ (blockStep s).link.txStream = s.link.txStream ∧
        (blockStep s).link.rxStream = s.link.rxStream) ∧
    (s.link.unanswered = true → s.transacts = true → blockStep s = s)

/-- An idle block changes only by a register write of the controller (a write to CMD starts a command) or by reset (10_state
R43): a block step, a byte of the peer and a flush leave it, and the controller's move leaves it unless it is an access
that writes. So the results stay as they are until a command starts or reset, and BUF[i] until it is written
(44_host_access R222). -/
def Obligations.IdleBlockChangesOnlyByWriteOrReset : Prop :=
  ∀ s t : State, s.busy = false → step s = .next t →
    (s.sched.head? = some .reset → t.block = Block.reset (s.block.epoch + 1)) ∧
    (s.sched.head? = some .block ∨ s.sched.head? = some .flush ∨ (∃ b, s.sched.head? = some (.wire b)) →
      t.block = s.block) ∧
    (s.sched = [] ∨ s.sched.head? = some .controller →
      (∀ w ops, s.ctl.program = .access w :: ops →
        t.block =
          match if fieldW w then selectReg (fieldRsv w) (fieldReg w) else none with
          | some r => if r.isReadOnly then s.block else s.block.writeReg (fieldData w) r
          | none => s.block) ∧
      ((∀ w ops, s.ctl.program ≠ .access w :: ops) → t.block = s.block)) ∧
    (s.resultsReady → s.sched.head? ≠ some .reset →
      (∀ w ops, s.ctl.program = .access w :: ops →
        ¬(fieldW w = true ∧ fieldRsv w = 0#5 ∧ fieldReg w = 0x000#10)) →
      t.resultsReady ∧ t.block.ok = s.block.ok ∧ t.block.result = s.block.result ∧
        t.block.errbyte = s.block.errbyte ∧ t.block.lenfReg = s.block.lenfReg ∧ t.block.crc = s.block.crc ∧
        t.block.rxcrc = s.block.rxcrc ∧
        ∀ i : Nat, (∀ w ops, s.ctl.program = .access w :: ops →
            ¬(fieldW w = true ∧ fieldRsv w = 0#5 ∧ (fieldReg w).toNat = 0x100 + i)) →
          t.block.readBuf i = s.block.readBuf i)

/-! ## The CRC engine -/

/-- `compute` of a concatenation runs on from the first part's value; the empty sequence gives the seed (40_crc R123). -/
def Obligations.ComputeOfAppend : Prop :=
  ∀ (seed : Half) (a b : List Byte),
    compute seed [] = seed ∧ compute seed (a ++ b) = compute (compute seed a) b

/-- `compute` is linear over GF(2), and zero bytes keep seed zero (40_crc R123). -/
def Obligations.ComputeIsLinear : Prop :=
  (∀ (s1 s2 : Half) (a b : List Byte), a.length = b.length →
    compute (s1 ^^^ s2) (List.zipWith (· ^^^ ·) a b) = compute s1 a ^^^ compute s2 b) ∧
  ∀ n : Nat, compute 0#16 (List.replicate n 0x00#8) = 0#16

/-- The residue: the checksum appended high byte first leaves zero (40_crc R123). -/
def Obligations.ComputeResidueIsZero : Prop :=
  ∀ (seed : Half) (m : List Byte),
    compute seed (m ++ [hi8 (compute seed m), lo8 (compute seed m)]) = 0#16

/-- The frame check sequence as a CRC over 16-bit words (40_crc R127). -/
def Obligations.FcsEqualsWordForm : Prop :=
  ∀ (opc lenf : Byte) (p : List Byte), p.length % 2 = 0 → fcs opc lenf p = fcsWords opc lenf p

/-- The fields of a frame. The length field of an accepted length is `N/2 - 1`, from 0 to 254, and stands for that length
again; it is never 0xFF (30_encoding R99, R100). The checksum field is two bytes, low byte first, and is assembled as it
was taken apart (30_encoding R101). -/
def Obligations.FrameFieldsStandForTheirValues : Prop :=
  (∀ n : Nat, n % 2 = 0 → 2 ≤ n → n ≤ 510 →
    (lenField n).toNat = n / 2 - 1 ∧ (lenField n).toNat ≤ 254 ∧ 2 * ((lenField n).toNat + 1) = n ∧
      lenField n ≠ 0xFF#8) ∧
  (∀ c : Half, (lo8 c).toNat = c.toNat % 256 ∧ (hi8 c).toNat = c.toNat / 256 ∧ le16 (lo8 c) (hi8 c) = c) ∧
  ∀ c0 c1 : Byte, le16 c0 c1 = c0.setWidth 16 ||| (c1.setWidth 16 <<< 8)

/-! ## Controller accesses -/

/-- A read of an unmapped number, of CMD, or with a reserved bit set returns 0x0000; a write to an unmapped number, to a
read-only register, or with a reserved bit set has no effect; busy or not, and neither is a fault (44_host_access
R220). -/
def Obligations.UnmappedAccessesAreHarmless : Prop :=
  ∀ (rsv : BitVec 5) (reg : BitVec 10) (data : Half) (s : State),
    ((rsv ≠ 0#5 ∨ reg = 0x000#10 ∨ (0x00B ≤ reg.toNat ∧ reg.toNat ≤ 0x0FF) ∨ 0x2FE ≤ reg.toNat) →
      exec (.hostRd rsv reg data) s = .next { s with ctl.data := 0x0000#16 }) ∧
    ((rsv ≠ 0#5 ∨ (0x00B ≤ reg.toNat ∧ reg.toNat ≤ 0x0FF) ∨ 0x2FE ≤ reg.toNat ∨
        reg ∈ [0x001#10, 0x002#10, 0x003#10, 0x005#10, 0x008#10, 0x009#10, 0x00A#10]) →
      exec (.hostWr rsv reg data) s = .next s)

/-- The exact reads, with no side effect: in every state STATUS, OPC, NBYTES, SEED and VARIANT, and while the block is idle
RESULT, ERRBYTE, LENF, CRC, RXCRC and BUF[i] too, zero-extended (44_host_access R215, R219). -/
def Obligations.ExactReadsReturnRegister : Prop :=
  ∀ (data : Half) (s : State),
    exec (.hostRd 0#5 0x001#10 data) s = .next { s with ctl.data := s.block.statusByte.setWidth 16 } ∧
    exec (.hostRd 0#5 0x004#10 data) s = .next { s with ctl.data := s.block.opc.setWidth 16 } ∧
    exec (.hostRd 0#5 0x006#10 data) s = .next { s with ctl.data := s.block.nbytes } ∧
    exec (.hostRd 0#5 0x007#10 data) s = .next { s with ctl.data := s.block.seed } ∧
    exec (.hostRd 0#5 0x00A#10 data) s = .next { s with ctl.data := 0x0001#16 } ∧
    (s.busy = false →
      exec (.hostRd 0#5 0x002#10 data) s = .next { s with ctl.data := s.block.result.toByte.setWidth 16 } ∧
      exec (.hostRd 0#5 0x003#10 data) s = .next { s with ctl.data := s.block.errbyte.setWidth 16 } ∧
      exec (.hostRd 0#5 0x005#10 data) s = .next { s with ctl.data := s.block.lenfReg.setWidth 16 } ∧
      exec (.hostRd 0#5 0x008#10 data) s = .next { s with ctl.data := s.block.crc } ∧
      exec (.hostRd 0#5 0x009#10 data) s = .next { s with ctl.data := s.block.rxcrc } ∧
      ∀ i : Nat, i < 510 →
        exec (.hostRd 0#5 (BitVec.ofNat 10 (0x100 + i)) data) s =
          .next { s with ctl.data := (s.block.readBuf i).setWidth 16 })

/-- While the block is busy, those reads return an unspecified value: a free value, whose unused high bits are 0 for an
8-bit register (44_host_access R219; log entry 7). Nothing but DATA and the count of draws changes. -/
def Obligations.BusyReadsReturnFreeValue : Prop :=
  ∀ (data : Half) (s : State), s.busy = true →
    (∀ reg : BitVec 10, reg = 0x008#10 ∨ reg = 0x009#10 →
      exec (.hostRd 0#5 reg data) s =
        .next { s with ctl.data := Config.busyRead s.draws, draws := s.draws + 1 }) ∧
    ∀ reg : BitVec 10,
      (reg = 0x002#10 ∨ reg = 0x003#10 ∨ reg = 0x005#10 ∨ (0x100 ≤ reg.toNat ∧ reg.toNat < 0x2FE)) →
      ∃ v : Half, v.toNat < 256 ∧
        exec (.hostRd 0#5 reg data) s = .next { s with ctl.data := v, draws := s.draws + 1 }

/-- STATUS: bit 0 BUSY, which is 1 exactly when `st` is not IDLE, bit 1 DONE, bit 2 OK, bit 3 FAULT, bits 7:4 read 0 in every
state (10_state R24, R25, R29). -/
def Obligations.StatusBitsRead : Prop :=
  ∀ s : State,
    s.block.statusByte.getLsbD 0 = decide (s.block.st ≠ .idle) ∧
    s.block.statusByte.getLsbD 1 = s.block.done ∧
    s.block.statusByte.getLsbD 2 = s.block.ok ∧
    s.block.statusByte.getLsbD 3 = s.block.fault ∧
    ∀ k : Nat, 4 ≤ k → s.block.statusByte.getLsbD k = false

/-- The numeric result codes of 60_exceptions R236: distinct, from 0x00 to 0x0A (10_state R30). -/
def Obligations.ResultCodesAreNumbered : Prop :=
  ([ResultCode.ok, .deviceNotReady, .unexpectedAck, .deviceRejectedFrame, .unexpectedOpcode, .lengthMismatch,
      .checksumMismatch, .timeout, .transportWrite, .badLength, .illegalCommand].map ResultCode.toByte =
    [0x00#8, 0x01#8, 0x02#8, 0x03#8, 0x04#8, 0x05#8, 0x06#8, 0x07#8, 0x08#8, 0x09#8, 0x0A#8]) ∧
  ∀ c : ResultCode, c.toByte.toNat ≤ 0x0A

/-- While the block is idle, a write to OPC or BUF[i] keeps `DATA[7:0]`, a write to NBYTES or SEED takes all of DATA, and
nothing else changes: every other byte of BUF reads as before (44_host_access R216). -/
def Obligations.IdleWritesSetRegister : Prop :=
  ∀ (v : Half) (s : State), s.busy = false →
    exec (.hostWr 0#5 0x004#10 v) s = .next { s with block.opc := v.setWidth 8 } ∧
    exec (.hostWr 0#5 0x006#10 v) s = .next { s with block.nbytes := v } ∧
    exec (.hostWr 0#5 0x007#10 v) s = .next { s with block.seed := v } ∧
    ∀ i : Nat, i < 510 → ∃ m : Memory,
      exec (.hostWr 0#5 (BitVec.ofNat 10 (0x100 + i)) v) s = .next { s with block.buf := m } ∧
      ({ s.block with buf := m } : Block).readBuf i = v.setWidth 8 ∧
      ∀ j : Nat, j ≠ i → ({ s.block with buf := m } : Block).readBuf j = s.block.readBuf j

/-- While the block is busy, a write to CMD (in any of its rows), OPC, NBYTES, SEED or BUF[i] is not performed and sets
FAULT; the command in progress goes on unchanged (44_host_access R218). -/
def Obligations.BusyWritesFault : Prop :=
  ∀ (v : Half) (hi code : Byte) (s : State), s.busy = true →
    (∀ reg : BitVec 10, reg ∈ [0x000#10, 0x004#10, 0x006#10, 0x007#10] ∨ (0x100 ≤ reg.toNat ∧ reg.toNat < 0x2FE) →
      exec (.hostWr 0#5 reg v) s = .next { s with block.fault := true }) ∧
    exec (.crcRun hi) s = .next { s with block.fault := true } ∧
    exec (.send hi) s = .next { s with block.fault := true } ∧
    exec (.recv hi) s = .next { s with block.fault := true } ∧
    exec (.cmdIllegal hi code) s = .next { s with block.fault := true }

/-- A HOST_WR whose operand names CMD does what the row its DATA decodes to does (30_encoding R93 to R95). -/
def Obligations.WriteToCmdIsItsCommandRow : Prop :=
  ∀ (v : Half) (s : State), exec (.hostWr 0#5 0x000#10 v) s = exec (decodeCommandWrite v) s

/-- A legal command starts: RESULT, ERRBYTE, DONE and OK are cleared, `cur` and `st` are set, BUSY becomes 1, and nothing
else changes (44_host_access R217; that CMD keeps the code is log entry 9). -/
def Obligations.LegalCommandStarts : Prop :=
  ∀ (hi : Byte) (s : State), s.busy = false →
    ∀ (i : Instr) (code : Byte) (c : Command) (first : St),
      (i, code, c, first) ∈
        [(Instr.crcRun hi, 0x01#8, Command.crcRun, St.c1), (Instr.send hi, 0x02#8, Command.send, St.s1),
         (Instr.recv hi, 0x03#8, Command.recv, St.r1)] →
      exec i s =
        .next { s with
          block := { s.block with
            cmd := code, result := .ok, errbyte := 0x00#8, done := false, ok := false, cur := c, st := first } } ∧
      ({ s with block.st := first } : State).busy = true

/-- An illegal code finishes at once with ILLEGAL_COMMAND and ERRBYTE = the code, no transaction and no other register
changed (30_encoding R95, 44_host_access R217, 60_exceptions R240). That CMD keeps the code is the model's choice: log
entry 9. -/
def Obligations.IllegalCommandFinishesAtOnce : Prop :=
  ∀ (hi code : Byte) (s : State), s.busy = false → (code = 0x00#8 ∨ 0x04 ≤ code.toNat) →
    exec (.cmdIllegal hi code) s =
      .next { s with
        block := { s.block with
          cmd := code, result := .illegalCommand, errbyte := code, done := true, ok := false, st := .idle } }

/-! ## Transport transactions, Finish, reset -/

/-- The two transport transactions. `TxGroup`: accepted, all bytes are appended to the transmit stream in order; failed, a
prefix of them is; nothing else changes but the answer taken. `RxGroup(n)`: answered with bytes, exactly `n` of them, which
are the next `n` of the receive stream as far as the transport holds them; or a timeout with none; nothing but the receive
side changes (20_memory R70, R71, R81). One that is never answered gives nothing, then and later (70_reset R281 (a); log
entry 31). -/
def Obligations.TransportTransactionsMoveWholeGroups : Prop :=
  (∀ (bs : List Byte) (s : State), s.link.unanswered = false →
    ∃ (answers : List TxAnswer) (d : Nat) (sent : List Byte) (never : Bool),
      (s.nextTxAnswer = .accepted → sent = bs ∧ never = false ∧ (txGroup bs s).1 = .accepted) ∧
      (∀ k, s.nextTxAnswer = .writeFail k → sent <+: bs ∧ never = false ∧ (txGroup bs s).1 = .writeFail) ∧
      (s.nextTxAnswer = .never → sent = [] ∧ never = true ∧ (txGroup bs s).1 = .unanswered) ∧
      (txGroup bs s).2 =
        { s with
          link.txStream := s.link.txStream ++ sent, link.txAnswers := answers, link.unanswered := never, draws := d }) ∧
  (∀ (n : Nat) (s : State), s.link.unanswered = false →
    (s.nextRxAnswer = .bytes → ∃ (bs : List Byte) (answers : List RxAnswer) (d : Nat),
      bs.length = n ∧ bs.take s.link.rxStream.length = s.link.rxStream.take n ∧
      rxGroup n s =
        (.bytes bs, { s with link.rxStream := s.link.rxStream.drop n, link.rxAnswers := answers, draws := d })) ∧
    (∀ k, s.nextRxAnswer = .timeout k → ∃ (answers : List RxAnswer) (d : Nat) (held : List Byte),
      rxGroup n s = (.timeout, { s with link.rxStream := held, link.rxAnswers := answers, draws := d })) ∧
    (s.nextRxAnswer = .never → ∃ (answers : List RxAnswer) (d : Nat),
      rxGroup n s = (.unanswered, { s with link.rxAnswers := answers, link.unanswered := true, draws := d }))) ∧
  ∀ (bs : List Byte) (n : Nat) (s : State), s.link.unanswered = true →
    txGroup bs s = (.unanswered, s) ∧ rxGroup n s = (.unanswered, s)

/-- `Finish(code)` (60_exceptions R240). -/
def Obligations.FinishEndsCommand : Prop :=
  ∀ (code : ResultCode) (s : State),
    s.finish code =
      { s with
        block := { s.block with result := code, ok := decide (code = .ok), done := true, st := .idle } } ∧
    (s.finish code).busy = false

/-- Reset, also while a command runs: every register at its reset value, BUF unspecified, the command and its transaction
abandoned without Finish, both streams untouched (70_reset R265, R266). Three clauses are the model's choice: BUF[i] is
the free value Config.bufByte of the reset's number (log entry 5), the controller's DATA (log entry 11) and its program,
and the environment's scripted answers (log entry 21), are left as they are. -/
def Obligations.ResetAbandonsCommand : Prop :=
  ∀ (s : State) (evs : List Event), s.sched = .reset :: evs → ∃ t : State, step s = .next t ∧
    t.block.statusByte = 0x00#8 ∧ t.block.cmd = 0x00#8 ∧ t.block.result = .ok ∧ t.block.errbyte = 0x00#8 ∧
    t.block.opc = 0x00#8 ∧ t.block.lenfReg = 0x00#8 ∧ t.block.nbytes = 0x0000#16 ∧ t.block.seed = 0x0000#16 ∧
    t.block.crc = 0x0000#16 ∧ t.block.rxcrc = 0x0000#16 ∧ t.block.st = .idle ∧
    (∀ i, t.block.readBuf i = Config.bufByte (s.block.epoch + 1) i) ∧
    t.link = { s.link with unanswered := false } ∧ t.ctl = s.ctl ∧ blockStep t = t

/-- The reset values of 10_state R22 in the machine after power-up; STATUS and RESULT read 0x00 (70_reset R267). -/
def Obligations.PowerUpValues : Prop :=
  State.reset.block.statusByte = 0x00#8 ∧ State.reset.block.cmd = 0x00#8 ∧
  State.reset.block.result.toByte = 0x00#8 ∧ State.reset.block.errbyte = 0x00#8 ∧
  State.reset.block.opc = 0x00#8 ∧ State.reset.block.lenfReg = 0x00#8 ∧ State.reset.block.nbytes = 0x0000#16 ∧
  State.reset.block.seed = 0x0000#16 ∧ State.reset.block.crc = 0x0000#16 ∧ State.reset.block.rxcrc = 0x0000#16 ∧
  State.reset.block.readReg .variant = 0x0001#16 ∧ State.reset.block.st = .idle

/-! ## The steps of CRC_RUN, SEND and RECV -/

/-- CRC_RUN's step: CRC of `BUF[0..N)` from SEED and `Finish(OK)`, or `Finish(BAD_LENGTH)` with CRC unchanged when
`N > 510`; no transport transaction (40_crc R129; `fcs_acc` is log entry 10). -/
def Obligations.CrcRunStepComputes : Prop :=
  ∀ s : State, s.block.st = .c1 →
    (s.block.nbytes.toNat > 510 → blockStep s = s.finish .badLength) ∧
    (s.block.nbytes.toNat ≤ 510 →
      blockStep s =
        State.finish .ok
          { s with
            block.crc := compute s.block.seed (s.block.memRead 0 s.block.nbytes.toNat)
            block.fcsAcc := compute s.block.seed (s.block.memRead 0 s.block.nbytes.toNat) })

/-- SEND S1 (41_frame_send R141, R142). -/
def Obligations.SendStep1ChecksLengthThenSendsOpcode : Prop :=
  ∀ s t : State, s.block.st = .s1 →
    ((s.block.nbytes.toNat % 2 = 1 ∨ s.block.nbytes.toNat < 2 ∨ s.block.nbytes.toNat > 510) →
      blockStep s = s.finish .badLength) ∧
    (s.block.nbytes.toNat % 2 = 0 → 2 ≤ s.block.nbytes.toNat → s.block.nbytes.toNat ≤ 510 →
      (txGroup [s.block.opc] s = (.accepted, t) → blockStep s = { t with block.st := .s2 }) ∧
      (txGroup [s.block.opc] s = (.writeFail, t) → blockStep s = t.finish .transportWrite))

/-- SEND S2, the ready-ack (41_frame_send R143). -/
def Obligations.SendStep2TestsReadyAck : Prop :=
  ∀ s t : State, s.block.st = .s2 →
    (rxGroup 1 s = (.timeout, t) → blockStep s = t.finish .timeout) ∧
    ∀ a : Byte, rxGroup 1 s = (.bytes [a], t) →
      (a = 0x46#8 → blockStep s = State.finish .deviceNotReady { t with block.errbyte := a }) ∧
      (a ≠ 0x46#8 → a ≠ 0x4F#8 → blockStep s = State.finish .unexpectedAck { t with block.errbyte := a }) ∧
      (a = 0x4F#8 → blockStep s = { t with block.st := .s3 })

/-- SEND S3, S4 and S5: the length field, the payload in index order as one group, the checksum low byte first (41_frame_send
R144 to R146). In S3 the length is an accepted one, as in every run (BlockInv.lengthChecked). That S5 leaves the checksum in
`fcs_acc` is the model's choice: log entry 10. -/
def Obligations.SendSteps3To5SendLengthPayloadChecksum : Prop :=
  ∀ s t : State,
    (s.block.st = .s3 → s.block.nbytes.toNat % 2 = 0 → 2 ≤ s.block.nbytes.toNat → s.block.nbytes.toNat ≤ 510 →
      ∀ l : Byte, l = BitVec.ofNat 8 (s.block.nbytes.toNat / 2 - 1) →
      (txGroup [l] s = (.accepted, t) →
        blockStep s = { t with block.lenf := l, block.lenfReg := l, block.st := .s4 }) ∧
      (txGroup [l] s = (.writeFail, t) →
        blockStep s = State.finish .transportWrite { t with block.lenf := l, block.lenfReg := l })) ∧
    (s.block.st = .s4 →
      (txGroup (s.block.memRead 0 s.block.nbytes.toNat) s = (.accepted, t) → blockStep s = { t with block.st := .s5 }) ∧
      (txGroup (s.block.memRead 0 s.block.nbytes.toNat) s = (.writeFail, t) →
        blockStep s = t.finish .transportWrite)) ∧
    (s.block.st = .s5 → ∀ c : Half, c = fcs s.block.opc s.block.lenf (s.block.memRead 0 s.block.nbytes.toNat) →
      (txGroup [lo8 c, hi8 c] s = (.accepted, t) →
        blockStep s = { t with block.crc := c, block.fcsAcc := c, block.st := .s6 }) ∧
      (txGroup [lo8 c, hi8 c] s = (.writeFail, t) →
        blockStep s = State.finish .transportWrite { t with block.crc := c, block.fcsAcc := c }))

/-- SEND S6, the end-ack (41_frame_send R147). -/
def Obligations.SendStep6TestsEndAck : Prop :=
  ∀ s t : State, s.block.st = .s6 →
    (rxGroup 1 s = (.timeout, t) → blockStep s = t.finish .timeout) ∧
    ∀ e : Byte, rxGroup 1 s = (.bytes [e], t) →
      (e ≠ 0x4F#8 → blockStep s = State.finish .deviceRejectedFrame { t with block.errbyte := e }) ∧
      (e = 0x4F#8 → blockStep s = t.finish .ok)

/-- RECV R1 (42_frame_recv R171, R172). -/
def Obligations.RecvStep1ChecksLengthThenOpcode : Prop :=
  ∀ s t : State, s.block.st = .r1 →
    ((s.block.nbytes.toNat % 2 = 1 ∨ s.block.nbytes.toNat < 2 ∨ s.block.nbytes.toNat > 510) →
      blockStep s = s.finish .badLength) ∧
    (s.block.nbytes.toNat % 2 = 0 → 2 ≤ s.block.nbytes.toNat → s.block.nbytes.toNat ≤ 510 →
      (rxGroup 1 s = (.timeout, t) → blockStep s = t.finish .timeout) ∧
      ∀ o : Byte, rxGroup 1 s = (.bytes [o], t) →
        (o ≠ 0x00#8 → blockStep s = State.finish .unexpectedOpcode { t with block.errbyte := o }) ∧
        (o = 0x00#8 → blockStep s = { t with block.st := .r2 }))

/-- RECV R2 and R3: the READY token, then the length byte, which must be `N/2 - 1` (42_frame_recv R173, R174). In R3 the length
is an accepted one, as in every run (BlockInv.lengthChecked). -/
def Obligations.RecvSteps2And3SendReadyThenTestLength : Prop :=
  ∀ s t : State,
    (s.block.st = .r2 →
      (txGroup [0x4F#8] s = (.accepted, t) → blockStep s = { t with block.st := .r3 }) ∧
      (txGroup [0x4F#8] s = (.writeFail, t) → blockStep s = t.finish .transportWrite)) ∧
    (s.block.st = .r3 → s.block.nbytes.toNat % 2 = 0 → 2 ≤ s.block.nbytes.toNat → s.block.nbytes.toNat ≤ 510 →
      (rxGroup 1 s = (.timeout, t) → blockStep s = t.finish .timeout) ∧
      ∀ l : Byte, rxGroup 1 s = (.bytes [l], t) →
        (l ≠ BitVec.ofNat 8 (s.block.nbytes.toNat / 2 - 1) →
          blockStep s =
            State.finish .lengthMismatch { t with block.lenf := l, block.lenfReg := l, block.errbyte := l }) ∧
        (l = BitVec.ofNat 8 (s.block.nbytes.toNat / 2 - 1) →
          blockStep s = { t with block.lenf := l, block.lenfReg := l, block.st := .r4 }))

/-- RECV R4, the payload: stored in `BUF[0..N)` in order, or on a timeout every byte of `BUF[0..N)` unspecified (a free value
each, log entry 6); the rest of BUF reads as before (42_frame_recv R175). `N` is at most 510, as in every run (BlockInv). -/
def Obligations.RecvStep4StoresPayload : Prop :=
  ∀ s t : State, s.block.st = .r4 → s.block.nbytes.toNat ≤ 510 →
    (∀ bs : List Byte, rxGroup s.block.nbytes.toNat s = (.bytes bs, t) → ∃ m : Memory,
      blockStep s = { t with block.buf := m, block.st := .r5 } ∧
      ∀ i : Nat, ({ s.block with buf := m } : Block).readBuf i =
        if i < s.block.nbytes.toNat then bs.getD i 0x00#8 else s.block.readBuf i) ∧
    (rxGroup s.block.nbytes.toNat s = (.timeout, t) → ∃ m : Memory,
      blockStep s = State.finish .timeout { t with block.buf := m, draws := t.draws + 1 } ∧
      ∀ i : Nat, ({ s.block with buf := m } : Block).readBuf i =
        if i < s.block.nbytes.toNat then Config.timeoutByte t.draws i else s.block.readBuf i)

/-- RECV R5, the checksum received and the local one (42_frame_recv R176). That `fcs_acc` holds it is the model's
choice: log entry 10. -/
def Obligations.RecvStep5TakesChecksum : Prop :=
  ∀ s t : State, s.block.st = .r5 →
    (rxGroup 2 s = (.timeout, t) → blockStep s = t.finish .timeout) ∧
    ∀ c0 c1 : Byte, rxGroup 2 s = (.bytes [c0, c1], t) →
      blockStep s =
        { t with
          block.rxcrc := c0.setWidth 16 ||| (c1.setWidth 16 <<< 8)
          block.crc := fcs 0x00#8 s.block.lenf (s.block.memRead 0 s.block.nbytes.toNat)
          block.fcsAcc := fcs 0x00#8 s.block.lenf (s.block.memRead 0 s.block.nbytes.toNat)
          block.st := .r6 }

/-- RECV R6, the end-ack (42_frame_recv R177, 60_exceptions R246). -/
def Obligations.RecvStep6SendsEndAck : Prop :=
  ∀ s t : State, s.block.st = .r6 →
    (s.block.rxcrc ≠ s.block.crc →
      (txGroup [0x46#8] s = (.accepted, t) → blockStep s = t.finish .checksumMismatch) ∧
      (txGroup [0x46#8] s = (.writeFail, t) → blockStep s = t.finish .transportWrite)) ∧
    (s.block.rxcrc = s.block.crc →
      (txGroup [0x4F#8] s = (.accepted, t) → blockStep s = t.finish .ok) ∧
      (txGroup [0x4F#8] s = (.writeFail, t) → blockStep s = t.finish .transportWrite))

/-! ## The one-byte rows -/

/-- A byte of the peer arriving at a block that waits for one byte: any byte, the rows RESPONSE, TOKEN_O and TOKEN_F being
the arrival of theirs. The block takes its step with the next byte `c` of the stream, which is the oldest byte held and the
arriving one where none is (20_memory R81). At the ready-ack 'O' is READY, 'F' NOT_READY and any other byte unexpected; at
the end-ack anything but 'O' rejects the frame (30_encoding R103, R104); the opcode must be 0x00 (42_frame_recv R172) and
the length byte `N/2 - 1` (R174). That an arrival answers the waiting group is the model's choice: log entry 16. -/
def Obligations.PeerByteAnswersWaitingGroup : Prop :=
  (∀ (i : Instr) (b : Byte), (i, b) ∈ [(Instr.response, 0x00#8), (Instr.tokenO, 0x4F#8), (Instr.tokenF, 0x46#8)] →
    ∀ s : State, exec i s = .next (deliverByte b s)) ∧
  ∀ (b : Byte) (s u : State) (c : Byte) (rest : List Byte), s.link.unanswered = false →
    s.link.rxStream ++ [b] = c :: rest → u = { s with link.rxStream := rest, draws := s.draws + 1 } →
    (s.block.st = .s2 →
      (c = 0x4F#8 → deliverByte b s = { u with block.st := .s3 }) ∧
      (c = 0x46#8 → deliverByte b s = State.finish .deviceNotReady { u with block.errbyte := c }) ∧
      (c ≠ 0x4F#8 → c ≠ 0x46#8 → deliverByte b s = State.finish .unexpectedAck { u with block.errbyte := c })) ∧
    (s.block.st = .s6 →
      (c = 0x4F#8 → deliverByte b s = u.finish .ok) ∧
      (c ≠ 0x4F#8 → deliverByte b s = State.finish .deviceRejectedFrame { u with block.errbyte := c })) ∧
    (s.block.nbytes.toNat % 2 = 0 → 2 ≤ s.block.nbytes.toNat → s.block.nbytes.toNat ≤ 510 →
      (s.block.st = .r1 →
        (c = 0x00#8 → deliverByte b s = { u with block.st := .r2 }) ∧
        (c ≠ 0x00#8 → deliverByte b s = State.finish .unexpectedOpcode { u with block.errbyte := c })) ∧
      (s.block.st = .r3 →
        (c = BitVec.ofNat 8 (s.block.nbytes.toNat / 2 - 1) →
          deliverByte b s = { u with block.lenf := c, block.lenfReg := c, block.st := .r4 }) ∧
        (c ≠ BitVec.ofNat 8 (s.block.nbytes.toNat / 2 - 1) →
          deliverByte b s =
            State.finish .lengthMismatch { u with block.lenf := c, block.lenfReg := c, block.errbyte := c })))

/-- A byte the peer sends while the block asks for no one-byte group, any byte and so each of the rows RESPONSE, TOKEN_O and
TOKEN_F, is held by the transport, behind what it holds already (20_memory R80): in every state but S2, S6, R3 and R1 with
an accepted length, and in every state whose transaction is never answered (log entries 16 and 31). -/
def Obligations.UnaskedByteIsHeld : Prop :=
  ∀ s : State,
    (s.block.st ∈ [St.idle, .c1, .s1, .s3, .s4, .s5, .r2, .r4, .r5, .r6] ∨
      (s.block.st = .r1 ∧
        (s.block.nbytes.toNat % 2 = 1 ∨ s.block.nbytes.toNat < 2 ∨ s.block.nbytes.toNat > 510)) ∨
      s.link.unanswered = true) →
    exec .response s = .next { s with link.rxStream := s.link.rxStream ++ [0x00#8] } ∧
    exec .tokenO s = .next { s with link.rxStream := s.link.rxStream ++ [0x4F#8] } ∧
    exec .tokenF s = .next { s with link.rxStream := s.link.rxStream ++ [0x46#8] } ∧
    ∀ b : Byte, deliverByte b s = { s with link.rxStream := s.link.rxStream ++ [b] }

/-! ## The client's requests -/

/-- READ_OBJECT and WRITE_OBJECT: the client queues the program of the request, first its FRAME_SEND: opcode, NBYTES = 4 or 8,
the payload of R202 or R204 into BUF, SEND, WAIT (43_client_od_layer R202 to R205, 30_encoding R109; log entry 17). -/
def Obligations.RequestsQueueTheirFrameSend : Prop :=
  ∀ s : State,
    (∃ rest : List CtlOp,
      exec .readObject s =
        .next { s with
          ctl.program :=
            [.access 0x80040010#32, .access 0x80060004#32,
             .access (0x8100#16 ++ (0x00#8 ++ s.ctl.client.index.extractLsb' 0 8)),
             .access (0x8101#16 ++ (0x00#8 ++ s.ctl.client.index.extractLsb' 8 8)),
             .access (0x8102#16 ++ (0x00#8 ++ s.ctl.client.subindex)),
             .access (0x8103#16 ++ (0x00#8 ++ s.ctl.client.nodeId)),
             .access 0x80000002#32, .wait, .checkResult, .access 0x80060008#32, .access 0x80000003#32, .wait,
             .checkResult] ++ (rest ++ s.ctl.program)
          ctl.client.bytes := []
          ctl.client.outcome := none } ∧
      rest = (List.range 8).map CtlOp.collect ++ [.endRead]) ∧
    (∃ rest : List CtlOp,
      exec .writeObject s =
        .next { s with
          ctl.program :=
            [.access 0x80040011#32, .access 0x80060008#32,
             .access (0x8100#16 ++ (0x00#8 ++ s.ctl.client.index.extractLsb' 0 8)),
             .access (0x8101#16 ++ (0x00#8 ++ s.ctl.client.index.extractLsb' 8 8)),
             .access (0x8102#16 ++ (0x00#8 ++ s.ctl.client.subindex)),
             .access (0x8103#16 ++ (0x00#8 ++ s.ctl.client.nodeId)),
             .access (0x8104#16 ++ (0x00#8 ++ s.ctl.client.value.extractLsb' 0 8)),
             .access (0x8105#16 ++ (0x00#8 ++ s.ctl.client.value.extractLsb' 8 8)),
             .access (0x8106#16 ++ (0x00#8 ++ s.ctl.client.value.extractLsb' 16 8)),
             .access (0x8107#16 ++ (0x00#8 ++ s.ctl.client.value.extractLsb' 24 8)),
             .access 0x80000002#32, .wait, .checkResult, .access 0x80060004#32, .access 0x80000003#32, .wait,
             .checkResult] ++ (rest ++ s.ctl.program)
          ctl.client.bytes := []
          ctl.client.outcome := none } ∧
      rest = (List.range 4).map CtlOp.collect ++ [.endWrite])

/-- A request on an idle block, run to the start of its SEND (the request and its accesses): READ_OBJECT gives OPC = 0x10,
N = 4 and the payload index-lo, index-hi, subindex, node-id in `BUF[0..4)`; WRITE_OBJECT gives OPC = 0x11, N = 8 and the
four bytes of the value, low byte first, behind them; the block is in S1 (43_client_od_layer R202, R204; log entry 17). -/
def Obligations.RequestsLoadFrameAndStartSend : Prop :=
  ∀ s : State, s.busy = false → s.sched = [] →
    (∃ t : State, Host.Core.run Sys2Proof.core 8 (s.withFetchWord 8 0x10) = .next t ∧
      t.block.opc = 0x10#8 ∧ t.block.nbytes = 0x0004#16 ∧ t.block.st = .s1 ∧ t.block.cur = .send ∧
      t.block.payload =
        [s.ctl.client.index.extractLsb' 0 8, s.ctl.client.index.extractLsb' 8 8, s.ctl.client.subindex,
         s.ctl.client.nodeId] ∧
      (∀ i, 4 ≤ i → t.block.readBuf i = s.block.readBuf i) ∧ t.link = s.link) ∧
    ∃ t : State, Host.Core.run Sys2Proof.core 12 (s.withFetchWord 8 0x11) = .next t ∧
      t.block.opc = 0x11#8 ∧ t.block.nbytes = 0x0008#16 ∧ t.block.st = .s1 ∧ t.block.cur = .send ∧
      t.block.payload =
        [s.ctl.client.index.extractLsb' 0 8, s.ctl.client.index.extractLsb' 8 8, s.ctl.client.subindex,
         s.ctl.client.nodeId, s.ctl.client.value.extractLsb' 0 8, s.ctl.client.value.extractLsb' 8 8,
         s.ctl.client.value.extractLsb' 16 8, s.ctl.client.value.extractLsb' 24 8] ∧
      (∀ i, 8 ≤ i → t.block.readBuf i = s.block.readBuf i) ∧ t.link = s.link

/-- The controller's own operations, when it moves next. WAIT reads STATUS and stays while bit 0 of the value is 1
(30_encoding R109). After an exchange, on the idle block, the client reads RESULT: OK goes on; anything else ends the request
with that RESULT and drops the rest of its program, the RECV after a failed SEND included (43_client_od_layer R203, R205;
log entry 19). It then reads BUF[i] byte by byte and interprets the bytes at the end. -/
def Obligations.ControllerOperationsStep : Prop :=
  ∀ (s : State) (evs : List Event), s.sched = .controller :: evs →
    (∀ ops, s.ctl.program = .wait :: ops →
      step s =
        .next { s with
          sched := evs
          ctl.program := if s.busy then .wait :: ops else ops
          ctl.data := s.block.statusByte.setWidth 16 }) ∧
    (∀ ops, s.ctl.program = .checkResult :: ops → s.busy = false →
      (s.block.result = .ok →
        step s = .next { s with sched := evs, ctl.program := ops, ctl.data := 0x0000#16 }) ∧
      (s.block.result ≠ .ok → ∀ (rest later : List CtlOp) (last : CtlOp), ops = rest ++ last :: later →
        (∀ op ∈ rest, op ≠ .endRead ∧ op ≠ .endWrite) → (last = .endRead ∨ last = .endWrite) →
        step s =
          .next { s with
            sched := evs
            ctl.program := later
            ctl.data := s.block.result.toByte.setWidth 16
            ctl.client.outcome := some (.failed s.block.result.toByte) })) ∧
    (∀ i ops, s.ctl.program = .collect i :: ops → s.busy = false → i < 510 →
      step s =
        .next { s with
          sched := evs
          ctl.program := ops
          ctl.data := (s.block.readBuf i).setWidth 16
          ctl.client.bytes := s.ctl.client.bytes ++ [s.block.readBuf i] }) ∧
    (∀ ops, s.ctl.program = .endRead :: ops →
      step s = .next (doEndRead { s with sched := evs, ctl.program := ops })) ∧
    ∀ ops, s.ctl.program = .endWrite :: ops →
      step s = .next (doEndWrite { s with sched := evs, ctl.program := ops })

/-- WAIT ends in every run in which every transaction is answered (44_host_access R221): from any state with no event
scheduled and WAIT next, if the command is CRC_RUN, which makes no transaction, or the environment's next answers are
answers, some number of steps later the block is idle and WAIT is done. While a transaction is never answered BUSY stays 1
and WAIT does not end (70_reset R281 (a), 93 U7; log entry 31). That the block is not passed over for ever is the model's
choice: log entry 33. -/
def Obligations.WaitEndsWhenTransactionsAreAnswered : Prop :=
  ∀ (s : State) (ops : List CtlOp), s.sched = [] → s.ctl.program = .wait :: ops →
    ((s.block.st = .c1 ∨
        (s.link.unanswered = false ∧ 4 ≤ s.link.txAnswers.length ∧ 4 ≤ s.link.rxAnswers.length ∧
          TxAnswer.never ∉ s.link.txAnswers ∧ RxAnswer.never ∉ s.link.rxAnswers)) →
      ∃ (n : Nat) (t : State), Host.Core.run Sys2Proof.core n s = .next t ∧ t.busy = false ∧ t.ctl.program = ops) ∧
    (s.link.unanswered = true → s.transacts = true → ∀ n : Nat, ∃ t : State,
      Host.Core.run Sys2Proof.core n s = .next t ∧ t.busy = true ∧ t.ctl.program = .wait :: ops)

/-- The client's reading of a response: LE32 error code, LE32 value; zero means success, anything else is DeviceError with the
code unmodified (43_client_od_layer R201, R203, R205, R206). -/
def Obligations.ClientReadsResponse : Prop :=
  (∀ v : Word, le32 (v.extractLsb' 0 8) (v.extractLsb' 8 8) (v.extractLsb' 16 8) (v.extractLsb' 24 8) = v) ∧
  ∀ (s : State) (err val : Word),
    (s.ctl.client.bytes = le32Bytes err ++ le32Bytes val →
      (doEndRead s).ctl.client.outcome = some (if err = 0#32 then .value val else .deviceError err)) ∧
    (s.ctl.client.bytes = le32Bytes err →
      (doEndWrite s).ctl.client.outcome = some (if err = 0#32 then .written else .deviceError err))

/-! ## Whole commands -/

/-- CRC_RUN from the access to the end: with `N <= 510` CRC is the checksum of `BUF[0..N)` from SEED and RESULT is OK; with a
larger `N` RESULT is BAD_LENGTH and CRC is unchanged; nothing else changes and no transaction is made (40_crc R129,
44_host_access R217; `fcs_acc` is log entry 10, CMD log entry 9). -/
def Obligations.CrcRunLeavesChecksum : Prop :=
  ∀ (s : State) (hi : Byte), s.busy = false → ∃ u : State, exec (.crcRun hi) s = .next u ∧
    (s.block.nbytes.toNat ≤ 510 → ∃ c : Half, c = compute s.block.seed (s.block.memRead 0 s.block.nbytes.toNat) ∧
      blockStep u =
        { s with
          block := { s.block with
            cmd := 0x01#8, cur := .crcRun, st := .idle, result := .ok, errbyte := 0x00#8, done := true, ok := true,
            crc := c, fcsAcc := c } }) ∧
    (s.block.nbytes.toNat > 510 →
      blockStep u =
        { s with
          block := { s.block with
            cmd := 0x01#8, cur := .crcRun, st := .idle, result := .badLength, errbyte := 0x00#8, done := true,
            ok := false } })

/-- SEND with every group accepted and both tokens 'O': the transmit stream gets the whole frame, RESULT is OK, LENF and CRC are
the frame's, and OPC, NBYTES, SEED, RXCRC and BUF are unchanged (41_frame_send R148, R149). -/
def Obligations.SendTransmitsWholeFrame : Prop :=
  ∀ (s : State) (hi : Byte) (txs : List TxAnswer) (rxs : List RxAnswer) (rest : List Byte),
    s.busy = false → s.link.unanswered = false →
    s.block.nbytes.toNat % 2 = 0 → 2 ≤ s.block.nbytes.toNat → s.block.nbytes.toNat ≤ 510 →
    s.link.txAnswers = .accepted :: .accepted :: .accepted :: .accepted :: txs →
    s.link.rxAnswers = .bytes :: .bytes :: rxs →
    s.link.rxStream = 0x4F#8 :: 0x4F#8 :: rest →
    ∃ u t : State, exec (.send hi) s = .next u ∧ t = blockStep^[6] u ∧
      t.busy = false ∧ t.block.done = true ∧ t.block.ok = true ∧ t.block.result = .ok ∧ t.block.errbyte = 0x00#8 ∧
      t.block.lenfReg = lenField s.block.nbytes.toNat ∧
      t.block.crc = fcs s.block.opc (lenField s.block.nbytes.toNat) s.block.payload ∧
      t.link.txStream = s.link.txStream ++ frameBytes s.block.opc s.block.payload ∧
      t.link.rxStream = rest ∧ t.block.opc = s.block.opc ∧ t.block.nbytes = s.block.nbytes ∧
      t.block.seed = s.block.seed ∧ t.block.rxcrc = s.block.rxcrc ∧ t.block.buf = s.block.buf ∧ t.ctl = s.ctl

/-- SEND under every environment: what it transmits is a prefix of the frame. If it ends: the whole frame for OK and for
DEVICE_REJECTED_FRAME, which carries the end-ack byte in ERRBYTE; the opcode alone for DEVICE_NOT_READY and
UNEXPECTED_ACK, which carry the ready-ack byte; the opcode or the whole frame for TIMEOUT; nothing for BAD_LENGTH
(41_frame_send R149, R150). -/
def Obligations.SendTransmitsPrefixOfFrame : Prop :=
  ∀ (s u t : State) (hi : Byte), s.busy = false → s.link.unanswered = false → exec (.send hi) s = .next u →
    t = blockStep^[6] u →
    ∃ sent : List Byte, t.link.txStream = s.link.txStream ++ sent ∧
      sent <+: frameBytes s.block.opc s.block.payload ∧
      (t.busy = false →
        t.block.result ∈ [ResultCode.ok, .deviceNotReady, .unexpectedAck, .deviceRejectedFrame, .timeout,
          .transportWrite, .badLength] ∧
        (t.block.result = .ok → sent = frameBytes s.block.opc s.block.payload) ∧
        (t.block.result = .deviceRejectedFrame →
          sent = frameBytes s.block.opc s.block.payload ∧ t.block.errbyte ≠ 0x4F#8 ∧
          ∀ a e rest, s.link.rxStream = a :: e :: rest → t.block.errbyte = e) ∧
        (t.block.result = .deviceNotReady → sent = [s.block.opc] ∧ t.block.errbyte = 0x46#8) ∧
        (t.block.result = .unexpectedAck →
          sent = [s.block.opc] ∧ t.block.errbyte ≠ 0x46#8 ∧ t.block.errbyte ≠ 0x4F#8 ∧
          ∀ a rest, s.link.rxStream = a :: rest → t.block.errbyte = a) ∧
        (t.block.result = .timeout → sent = [s.block.opc] ∨ sent = frameBytes s.block.opc s.block.payload) ∧
        (t.block.result = .badLength → sent = []))

/-- RECV of a good frame with every group delivered and accepted: BUF gets the payload, LENF, RXCRC and CRC are the frame's, the
two tokens are 'O', RESULT is OK; BUF from N on, OPC, NBYTES and SEED are unchanged (42_frame_recv R178, R179). -/
def Obligations.RecvReturnsPayloadOfGoodFrame : Prop :=
  ∀ (s : State) (hi : Byte) (p rest : List Byte) (txs : List TxAnswer) (rxs : List RxAnswer),
    s.busy = false → s.link.unanswered = false →
    p.length % 2 = 0 → 2 ≤ p.length → p.length ≤ 510 → s.block.nbytes.toNat = p.length →
    s.link.txAnswers = .accepted :: .accepted :: txs →
    s.link.rxAnswers = .bytes :: .bytes :: .bytes :: .bytes :: rxs →
    s.link.rxStream = frameBytes 0x00#8 p ++ rest →
    ∃ u t : State, exec (.recv hi) s = .next u ∧ t = blockStep^[6] u ∧
      t.busy = false ∧ t.block.done = true ∧ t.block.ok = true ∧ t.block.result = .ok ∧ t.block.errbyte = 0x00#8 ∧
      t.block.payload = p ∧ t.block.lenfReg = lenField p.length ∧
      t.block.crc = fcs 0x00#8 (lenField p.length) p ∧ t.block.rxcrc = t.block.crc ∧
      t.link.txStream = s.link.txStream ++ [0x4F#8, 0x4F#8] ∧ t.link.rxStream = rest ∧
      t.block.opc = s.block.opc ∧ t.block.nbytes = s.block.nbytes ∧ t.block.seed = s.block.seed ∧
      (∀ i, p.length ≤ i → t.block.readBuf i = s.block.readBuf i) ∧ t.ctl = s.ctl

/-- RECV accepts nothing but a good frame: if it ends OK, the length byte it read is `N/2 - 1` and the checksum it read is that
of opcode 0x00, that length byte and the payload now in BUF, whether the bytes were held at its start or arrived while it
waited (free bytes, log entry 3); as far as bytes were held, they are that frame's; and the block sent 'O' twice
(42_frame_recv R176, R177, R179, R180). -/
def Obligations.RecvEndsOkOnlyOnGoodFrame : Prop :=
  ∀ (s u t : State) (hi : Byte), s.busy = false → s.link.unanswered = false → exec (.recv hi) s = .next u →
    t = blockStep^[6] u → t.busy = false → t.block.result = .ok →
    t.block.lenfReg = lenField s.block.nbytes.toNat ∧
      t.block.crc = fcs 0x00#8 (lenField s.block.nbytes.toNat) t.block.payload ∧ t.block.rxcrc = t.block.crc ∧
      (frameBytes 0x00#8 t.block.payload).take s.link.rxStream.length =
        s.link.rxStream.take (4 + s.block.nbytes.toNat) ∧
      t.link.rxStream = s.link.rxStream.drop (4 + s.block.nbytes.toNat) ∧
      t.link.txStream = s.link.txStream ++ [0x4F#8, 0x4F#8]

/-- What RECV transmits under every environment, by its result: nothing for BAD_LENGTH and UNEXPECTED_OPCODE; READY alone for
LENGTH_MISMATCH; nothing or READY alone for TIMEOUT; READY and FAIL for CHECKSUM_MISMATCH; READY and OK for OK; a prefix of
one of these two pairs for TRANSPORT_WRITE, and of nothing else in any case (42_frame_recv R179, R181, 30_encoding
R105). -/
def Obligations.RecvTransmitsTokensByResult : Prop :=
  ∀ (s u t : State) (hi : Byte), s.busy = false → s.link.unanswered = false → exec (.recv hi) s = .next u →
    t = blockStep^[6] u →
    ∃ sent : List Byte, t.link.txStream = s.link.txStream ++ sent ∧
      (sent <+: [0x4F#8, 0x46#8] ∨ sent <+: [0x4F#8, 0x4F#8]) ∧
      (t.busy = false →
        t.block.result ∈ [ResultCode.ok, .unexpectedOpcode, .lengthMismatch, .checksumMismatch, .timeout,
          .transportWrite, .badLength] ∧
        (t.block.result = .badLength → sent = []) ∧
        (t.block.result = .unexpectedOpcode → sent = []) ∧
        (t.block.result = .lengthMismatch → sent = [0x4F#8]) ∧
        (t.block.result = .timeout → sent = [] ∨ sent = [0x4F#8]) ∧
        (t.block.result = .checksumMismatch → sent = [0x4F#8, 0x46#8]) ∧
        (t.block.result = .ok → sent = [0x4F#8, 0x4F#8]))

/-- One flipped bit in a frame RECV receives, every group delivered and accepted: in the opcode, UNEXPECTED_OPCODE and no token; in
the length byte, LENGTH_MISMATCH after READY; in the payload or the checksum, CHECKSUM_MISMATCH and FAIL sent (40_crc R130). -/
def Obligations.SingleBitFlipIsDetected : Prop :=
  ∀ (s u t : State) (hi : Byte) (p rest : List Byte) (j k : Nat) (txs : List TxAnswer) (rxs : List RxAnswer),
    s.busy = false → s.link.unanswered = false →
    p.length % 2 = 0 → 2 ≤ p.length → p.length ≤ 510 → s.block.nbytes.toNat = p.length →
    j < p.length + 4 → k < 8 →
    s.link.txAnswers = .accepted :: .accepted :: txs →
    s.link.rxAnswers = .bytes :: .bytes :: .bytes :: .bytes :: rxs →
    s.link.rxStream = (frameBytes 0x00#8 p).modify j (· ^^^ BitVec.twoPow 8 k) ++ rest →
    exec (.recv hi) s = .next u → t = blockStep^[6] u →
    (j = 0 → t.block.result = .unexpectedOpcode ∧ t.link.txStream = s.link.txStream) ∧
    (j = 1 → t.block.result = .lengthMismatch ∧ t.link.txStream = s.link.txStream ++ [0x4F#8]) ∧
    (2 ≤ j → t.block.result = .checksumMismatch ∧ t.link.txStream = s.link.txStream ++ [0x4F#8, 0x46#8])

/-- Round trip over a loopback: A runs SEND of payload `p` under opcode 0x00 and B runs RECV; B's receive stream is A's transmit
stream, A's receive stream is B's transmit stream (the two tokens, which is what B is shown to transmit), and every group is
accepted or delivered. Then B ends OK with `BUF[0..N) = p` and A ends OK (42_frame_recv R183, there for N up to 8). -/
def Obligations.LoopbackRoundTrip : Prop :=
  ∀ (a b ua ub ta tb : State) (ha hb : Byte),
    a.busy = false → b.busy = false → a.link.unanswered = false → b.link.unanswered = false →
    a.block.opc = 0x00#8 → b.block.nbytes = a.block.nbytes →
    a.block.nbytes.toNat % 2 = 0 → 2 ≤ a.block.nbytes.toNat → a.block.nbytes.toNat ≤ 510 →
    a.link.txStream = [] → b.link.txStream = [] →
    a.link.txAnswers = List.replicate 4 .accepted → b.link.txAnswers = List.replicate 2 .accepted →
    a.link.rxAnswers = List.replicate 2 .bytes → b.link.rxAnswers = List.replicate 4 .bytes →
    exec (.send ha) a = .next ua → exec (.recv hb) b = .next ub →
    ta = blockStep^[6] { ua with link.rxStream := [0x4F#8, 0x4F#8] } →
    tb = blockStep^[6] { ub with link.rxStream := ta.link.txStream } →
    tb.link.txStream = [0x4F#8, 0x4F#8] ∧ ta.link.rxStream = [] ∧ tb.link.rxStream = [] ∧
      ta.block.result = .ok ∧ tb.block.result = .ok ∧ tb.block.payload = a.block.payload
end

