-- ==== Sys2Proof/Laws/Memory.lean ====
section
/-!
SUPPORT. The laws of BUF: a read after a write, and that every memory operation keeps the canonical form.
-/

namespace Sys2Proof.Machine

@[simp] theorem memory_lookup_nil (i : Nat) : Memory.lookup [] i = none := rfl

@[simp] theorem memory_lookup_insert_same (i : Nat) (v : Byte) (m : Memory) :
    Memory.lookup (Memory.insert i v m) i = some v := by
  induction m with
  | nil => simp [Memory.insert, Memory.lookup]
  | cons c rest ih =>
    unfold Memory.insert
    split
    · simp [Memory.lookup]
    · split
      · simp [Memory.lookup]
      · rename_i h
        simp [Memory.lookup, Ne.symm h, ih]

theorem memory_lookup_insert_other {i j : Nat} (h : j ≠ i) (v : Byte) (m : Memory) :
    Memory.lookup (Memory.insert i v m) j = Memory.lookup m j := by
  induction m with
  | nil => simp [Memory.insert, Memory.lookup, h.symm]
  | cons c rest ih =>
    unfold Memory.insert
    split
    · simp [Memory.lookup, h.symm]
    · split
      · rename_i hc
        simp [Memory.lookup, ← hc, h.symm]
      · simp [Memory.lookup, ih]

theorem memory_lookup_writeByte (i j : Nat) (v : Byte) (m : Memory) :
    Memory.lookup (Memory.writeByte i v m) j =
      if j = i ∧ i < Config.bufBytes then some v else Memory.lookup m j := by
  unfold Memory.writeByte
  by_cases hi : i < Config.bufBytes <;> by_cases hj : j = i
  · subst hj; simp [hi]
  · simp [hi, hj, memory_lookup_insert_other hj]
  · simp [hi]
  · simp [hi]

/-- After `MemWrite(i, n, bs)` an address inside the range holds its byte, and every other one what it held. -/
theorem memory_lookup_writeBytes (bs : List Byte) (i j : Nat) (m : Memory)
    (hfit : i + bs.length ≤ Config.bufBytes) :
    Memory.lookup (Memory.writeBytes i bs m) j =
      if i ≤ j ∧ j < i + bs.length then some (bs.getD (j - i) 0x00#8) else Memory.lookup m j := by
  induction bs generalizing i m with
  | nil =>
    have : ¬(i ≤ j ∧ j < i + ([] : List Byte).length) := by simp
    rw [if_neg this]; rfl
  | cons v vs ih =>
    simp only [List.length_cons] at hfit ⊢
    rw [Memory.writeBytes, ih (i + 1) _ (by omega), memory_lookup_writeByte]
    by_cases hj : j = i
    · subst hj
      rw [if_neg (by omega), if_pos (by omega), if_pos (by omega)]
      simp
    · by_cases hr : i + 1 ≤ j ∧ j < i + 1 + vs.length
      · rw [if_pos hr, if_pos (by omega)]
        have : j - i = (j - (i + 1)) + 1 := by omega
        rw [this, List.getD_cons_succ]
      · rw [if_neg hr, if_neg (by omega), if_neg (by omega)]

/-- `MemWrite(i, n, bs)` leaves every address outside its range alone. -/
theorem memory_lookup_writeBytes_outside (bs : List Byte) (i j : Nat) (m : Memory)
    (hout : j < i ∨ i + bs.length ≤ j) :
    Memory.lookup (Memory.writeBytes i bs m) j = Memory.lookup m j := by
  induction bs generalizing i m with
  | nil => rfl
  | cons v vs ih =>
    simp only [List.length_cons] at hout
    rw [Memory.writeBytes, ih (i + 1) _ (by omega), memory_lookup_writeByte, if_neg (by omega)]

theorem mem_insert {i : Nat} {v : Byte} {m : Memory} {c : Host.Cell} (h : c ∈ Memory.insert i v m) :
    c = (i, v) ∨ c ∈ m := by
  induction m with
  | nil => simpa [Memory.insert] using h
  | cons d rest ih =>
    unfold Memory.insert at h
    split at h
    · simpa using h
    · split at h
      · rcases List.mem_cons.1 h with h | h
        · exact .inl h
        · exact .inr (List.mem_cons_of_mem _ h)
      · rcases List.mem_cons.1 h with h | h
        · exact .inr (h ▸ List.mem_cons_self)
        · rcases ih h with h | h
          · exact .inl h
          · exact .inr (List.mem_cons_of_mem _ h)

theorem pairwise_insert (i : Nat) (v : Byte) {m : Memory} (h : m.Pairwise (fun c d => c.1 < d.1)) :
    (Memory.insert i v m).Pairwise (fun c d => c.1 < d.1) := by
  induction m with
  | nil => simp [Memory.insert]
  | cons c rest ih =>
    obtain ⟨hc, hr⟩ := List.pairwise_cons.1 h
    unfold Memory.insert
    split
    · rename_i hi
      refine List.pairwise_cons.2 ⟨fun d hd => ?_, h⟩
      rcases List.mem_cons.1 hd with rfl | hd
      · exact hi
      · exact hi.trans (hc d hd)
    · split
      · rename_i hi
        exact List.pairwise_cons.2 ⟨fun d hd => by simpa [hi] using hc d hd, hr⟩
      · refine List.pairwise_cons.2 ⟨fun d hd => ?_, ih hr⟩
        rcases mem_insert hd with rfl | hd
        · show c.1 < i; omega
        · exact hc d hd

theorem memory_wf_nil : Memory.wf [] := by simp [Memory.wf]

theorem memory_wf_writeByte (i : Nat) (v : Byte) {m : Memory} (h : Memory.wf m) : Memory.wf (m.writeByte i v) := by
  unfold Memory.writeByte
  split
  · refine ⟨pairwise_insert i v h.1, fun c hc => ?_⟩
    rcases mem_insert hc with rfl | hc
    · assumption
    · exact h.2 c hc
  · exact h

theorem memory_wf_writeBytes (bs : List Byte) (i : Nat) {m : Memory} (h : Memory.wf m) :
    Memory.wf (m.writeBytes i bs) := by
  induction bs generalizing i m with
  | nil => exact h
  | cons v vs ih => exact ih (i + 1) (memory_wf_writeByte i v h)

/-! ## Reads of BUF -/

/-- Two blocks with the same BUF and the same reset count read the same bytes. -/
theorem readBuf_congr {b c : Block} (hbuf : b.buf = c.buf) (hep : b.epoch = c.epoch) (i : Nat) :
    b.readBuf i = c.readBuf i := by
  simp [Block.readBuf, hbuf, hep]

theorem memRead_congr {b c : Block} (hbuf : b.buf = c.buf) (hep : b.epoch = c.epoch) (i n : Nat) :
    b.memRead i n = c.memRead i n := by
  simp [Block.memRead, readBuf_congr hbuf hep]

@[simp] theorem memRead_length (b : Block) (i n : Nat) : (b.memRead i n).length = n := by
  simp [Block.memRead]

@[simp] theorem payload_length (b : Block) : b.payload.length = b.nbytes.toNat := by
  simp [Block.payload]

/-- What BUF holds after `MemWrite(0, n, bs)`. -/
theorem readBuf_writeBytes (b : Block) (bs : List Byte) (i : Nat) (hfit : bs.length ≤ Config.bufBytes) :
    ({ b with buf := b.buf.writeBytes 0 bs } : Block).readBuf i =
      if i < bs.length then bs.getD i 0x00#8 else b.readBuf i := by
  simp only [Block.readBuf]
  rw [memory_lookup_writeBytes bs 0 i b.buf (by omega)]
  by_cases h : i < bs.length
  · rw [if_pos (by omega), if_pos h]; simp
  · rw [if_neg (by omega), if_neg h]

/-- A payload written is the payload read. -/
theorem memRead_writeBytes (b : Block) (bs : List Byte) (hfit : bs.length ≤ Config.bufBytes) :
    ({ b with buf := b.buf.writeBytes 0 bs } : Block).memRead 0 bs.length = bs := by
  apply List.ext_getElem
  · simp
  · intro i h1 h2
    simp only [Block.memRead, List.getElem_map, List.getElem_range, Nat.zero_add]
    rw [readBuf_writeBytes b bs i hfit, if_pos h2]
    simp [h2]

/-- What BUF reads after one `BUF[i] <- v`. -/
theorem readBuf_writeByte (b : Block) (i j : Nat) (v : Byte) (hi : i < Config.bufBytes) :
    ({ b with buf := b.buf.writeByte i v } : Block).readBuf j = if j = i then v else b.readBuf j := by
  simp only [Block.readBuf]
  rw [memory_lookup_writeByte]
  by_cases h : j = i
  · rw [if_pos ⟨h, hi⟩, if_pos h]; rfl
  · rw [if_neg (by simp [h]), if_neg h]

end Sys2Proof.Machine
end

