-- ==== Sys2Proof/Laws/Operands.lean ====
section
/-!
SUPPORT. The operand forms: which numbers name a register, which lengths are accepted, the halves of a 16-bit value.
-/

namespace Sys2Proof.Machine

/-! ## Register numbers -/

theorem number_ne_of_large {n : BitVec 10} (h : 0x00B ≤ n.toNat) (k : Nat) (hk : k < 11) : n ≠ BitVec.ofNat 10 k := by
  rintro rfl
  simp at h
  omega

/-- Past 0x00A only the BUF window is mapped (20_memory R61). -/
theorem ofNumber_large {n : BitVec 10} (h : 0x00B ≤ n.toNat) :
    Reg.ofNumber n =
      if 0x100 ≤ n.toNat ∧ n.toNat < 0x100 + Config.bufBytes then some (.buf (n.toNat - 0x100)) else none := by
  have e := number_ne_of_large h
  simp only [Reg.ofNumber, e 0 (by omega), e 1 (by omega), e 2 (by omega), e 3 (by omega), e 4 (by omega),
    e 5 (by omega), e 6 (by omega), e 7 (by omega), e 8 (by omega), e 9 (by omega), e 10 (by omega), if_false]

/-- An unmapped number names no register. -/
theorem ofNumber_unmapped {n : BitVec 10} (h : (0x00B ≤ n.toNat ∧ n.toNat ≤ 0x0FF) ∨ 0x2FE ≤ n.toNat) :
    Reg.ofNumber n = none := by
  rw [ofNumber_large (by omega), if_neg]
  unfold Config.bufBytes
  omega

/-- A number in the BUF window names its byte. -/
theorem ofNumber_window {n : BitVec 10} (h : 0x100 ≤ n.toNat ∧ n.toNat < 0x2FE) :
    Reg.ofNumber n = some (.buf (n.toNat - 0x100)) := by
  rw [ofNumber_large (by omega), if_pos]
  unfold Config.bufBytes
  omega

/-- `BUF[i]` has number `0x100 + i`. -/
theorem ofNumber_buf {i : Nat} (h : i < Config.bufBytes) : Reg.ofNumber (Reg.buf i).number = some (.buf i) := by
  unfold Config.bufBytes at h
  have hn : (Reg.buf i).number.toNat = 0x100 + i := by simp [Reg.number]; omega
  rw [ofNumber_window (by omega), hn, Nat.add_sub_cancel_left]

/-- A register that a number names has that number. -/
theorem number_ofNumber {n : BitVec 10} {r : Reg} (h : Reg.ofNumber n = some r) : r.number = n := by
  by_cases hn : 0x00B ≤ n.toNat
  · rw [ofNumber_large hn] at h
    split at h
    · cases h
      apply BitVec.eq_of_toNat_eq
      simp only [Reg.number, BitVec.toNat_ofNat]
      have := n.isLt
      omega
    · cases h
  · have hl : n.toNat < 11 := by omega
    revert h
    obtain ⟨k, rfl⟩ : ∃ k, n = BitVec.ofNat 10 k := ⟨n.toNat, by simp⟩
    have hk : k % 1024 < 11 := by simpa using hl
    rw [show BitVec.ofNat 10 k = BitVec.ofNat 10 (k % 1024) by apply BitVec.eq_of_toNat_eq; simp]
    generalize k % 1024 = j at hk
    intro h
    interval_cases j <;> (simp only [Reg.ofNumber] at h; simp at h; subst h; rfl)

/-! ## Lengths -/

/-- The accepted lengths, in numerals. -/
theorem lengthOk_iff (n : Nat) : lengthOk n = true ↔ n % 2 = 0 ∧ 2 ≤ n ∧ n ≤ 510 := by
  simp only [lengthOk, decide_eq_true_eq]
  exact Iff.rfl

/-! ## Halves -/

theorem lo8_append (hi lo : Byte) : lo8 (hi ++ lo) = lo := by
  simp only [lo8]; ext i hi; simp; grind

theorem lo8_eq_setWidth (v : Half) : lo8 v = v.setWidth 8 := by
  ext i hi; simp [lo8]

/-- A concatenation of two bytes as a shift and an exclusive or. -/
theorem append_eq_shift_xor (a b : Byte) : (a ++ b : Half) = (a.setWidth 16 <<< 8) ^^^ b.setWidth 16 := by
  apply BitVec.eq_of_getLsbD_eq
  intro i hi
  refine (BitVec.getLsbD_append (x := a) (y := b) (i := i)).trans ?_
  by_cases h : i < 8
  · simp [h, hi]
  · simp only [h, if_false, BitVec.getLsbD_xor, BitVec.getLsbD_shiftLeft, BitVec.getLsbD_setWidth,
      BitVec.getLsbD_of_ge b i (by omega)]
    simp [hi]
    omega

end Sys2Proof.Machine
end

