-- ==== Sys2Proof/Laws/State.lean ====
section
/-!
SUPPORT. What each update of the state leaves in each field: one lemma per field per update, true by rfl, so that no proof
unfolds a record update.
-/

namespace Sys2Proof.Machine

/-! ## Block.finish -/

@[simp] theorem finish_cmd (code : ResultCode) (b : Block) : (b.finish code).cmd = b.cmd := rfl

@[simp] theorem finish_done (code : ResultCode) (b : Block) : (b.finish code).done = true := rfl

@[simp] theorem finish_ok (code : ResultCode) (b : Block) : (b.finish code).ok = decide (code = .ok) := rfl

@[simp] theorem finish_fault (code : ResultCode) (b : Block) : (b.finish code).fault = b.fault := rfl

@[simp] theorem finish_result (code : ResultCode) (b : Block) : (b.finish code).result = code := rfl

@[simp] theorem finish_errbyte (code : ResultCode) (b : Block) : (b.finish code).errbyte = b.errbyte := rfl

@[simp] theorem finish_opc (code : ResultCode) (b : Block) : (b.finish code).opc = b.opc := rfl

@[simp] theorem finish_lenfReg (code : ResultCode) (b : Block) : (b.finish code).lenfReg = b.lenfReg := rfl

@[simp] theorem finish_nbytes (code : ResultCode) (b : Block) : (b.finish code).nbytes = b.nbytes := rfl

@[simp] theorem finish_seed (code : ResultCode) (b : Block) : (b.finish code).seed = b.seed := rfl

@[simp] theorem finish_crc (code : ResultCode) (b : Block) : (b.finish code).crc = b.crc := rfl

@[simp] theorem finish_rxcrc (code : ResultCode) (b : Block) : (b.finish code).rxcrc = b.rxcrc := rfl

@[simp] theorem finish_buf (code : ResultCode) (b : Block) : (b.finish code).buf = b.buf := rfl

@[simp] theorem finish_epoch (code : ResultCode) (b : Block) : (b.finish code).epoch = b.epoch := rfl

@[simp] theorem finish_st (code : ResultCode) (b : Block) : (b.finish code).st = .idle := rfl

@[simp] theorem finish_cur (code : ResultCode) (b : Block) : (b.finish code).cur = b.cur := rfl

@[simp] theorem finish_lenf (code : ResultCode) (b : Block) : (b.finish code).lenf = b.lenf := rfl

@[simp] theorem finish_fcsAcc (code : ResultCode) (b : Block) : (b.finish code).fcsAcc = b.fcsAcc := rfl

/-! ## Block.raiseFault -/

@[simp] theorem raiseFault_cmd (b : Block) : b.raiseFault.cmd = b.cmd := rfl

@[simp] theorem raiseFault_done (b : Block) : b.raiseFault.done = b.done := rfl

@[simp] theorem raiseFault_ok (b : Block) : b.raiseFault.ok = b.ok := rfl

@[simp] theorem raiseFault_fault (b : Block) : b.raiseFault.fault = true := rfl

@[simp] theorem raiseFault_result (b : Block) : b.raiseFault.result = b.result := rfl

@[simp] theorem raiseFault_errbyte (b : Block) : b.raiseFault.errbyte = b.errbyte := rfl

@[simp] theorem raiseFault_opc (b : Block) : b.raiseFault.opc = b.opc := rfl

@[simp] theorem raiseFault_lenfReg (b : Block) : b.raiseFault.lenfReg = b.lenfReg := rfl

@[simp] theorem raiseFault_nbytes (b : Block) : b.raiseFault.nbytes = b.nbytes := rfl

@[simp] theorem raiseFault_seed (b : Block) : b.raiseFault.seed = b.seed := rfl

@[simp] theorem raiseFault_crc (b : Block) : b.raiseFault.crc = b.crc := rfl

@[simp] theorem raiseFault_rxcrc (b : Block) : b.raiseFault.rxcrc = b.rxcrc := rfl

@[simp] theorem raiseFault_buf (b : Block) : b.raiseFault.buf = b.buf := rfl

@[simp] theorem raiseFault_epoch (b : Block) : b.raiseFault.epoch = b.epoch := rfl

@[simp] theorem raiseFault_st (b : Block) : b.raiseFault.st = b.st := rfl

@[simp] theorem raiseFault_cur (b : Block) : b.raiseFault.cur = b.cur := rfl

@[simp] theorem raiseFault_lenf (b : Block) : b.raiseFault.lenf = b.lenf := rfl

@[simp] theorem raiseFault_fcsAcc (b : Block) : b.raiseFault.fcsAcc = b.fcsAcc := rfl

/-! ## Updates of the whole state -/

/-! ### State.goto -/

@[simp] theorem state_goto_block (st : St) (s : State) : (s.goto st).block = { s.block with st := st } := rfl

@[simp] theorem state_goto_link (st : St) (s : State) : (s.goto st).link = s.link := rfl

@[simp] theorem state_goto_ctl (st : St) (s : State) : (s.goto st).ctl = s.ctl := rfl

@[simp] theorem state_goto_sched (st : St) (s : State) : (s.goto st).sched = s.sched := rfl

@[simp] theorem state_goto_draws (st : St) (s : State) : (s.goto st).draws = s.draws := rfl

@[simp] theorem state_goto_turns (st : St) (s : State) : (s.goto st).turns = s.turns := rfl

/-! ### State.finish -/

@[simp] theorem state_finish_block (code : ResultCode) (s : State) : (s.finish code).block = s.block.finish code := rfl

@[simp] theorem state_finish_link (code : ResultCode) (s : State) : (s.finish code).link = s.link := rfl

@[simp] theorem state_finish_ctl (code : ResultCode) (s : State) : (s.finish code).ctl = s.ctl := rfl

@[simp] theorem state_finish_sched (code : ResultCode) (s : State) : (s.finish code).sched = s.sched := rfl

@[simp] theorem state_finish_draws (code : ResultCode) (s : State) : (s.finish code).draws = s.draws := rfl

@[simp] theorem state_finish_turns (code : ResultCode) (s : State) : (s.finish code).turns = s.turns := rfl

/-! ### State.finishWith -/

@[simp] theorem state_finishWith_block (code : ResultCode) (v : Byte) (s : State) : (s.finishWith code v).block = Block.finish code { s.block with errbyte := v } := rfl

@[simp] theorem state_finishWith_link (code : ResultCode) (v : Byte) (s : State) : (s.finishWith code v).link = s.link := rfl

@[simp] theorem state_finishWith_ctl (code : ResultCode) (v : Byte) (s : State) : (s.finishWith code v).ctl = s.ctl := rfl

@[simp] theorem state_finishWith_sched (code : ResultCode) (v : Byte) (s : State) : (s.finishWith code v).sched = s.sched := rfl

@[simp] theorem state_finishWith_draws (code : ResultCode) (v : Byte) (s : State) : (s.finishWith code v).draws = s.draws := rfl

@[simp] theorem state_finishWith_turns (code : ResultCode) (v : Byte) (s : State) : (s.finishWith code v).turns = s.turns := rfl

/-! ### State.withLenf -/

@[simp] theorem state_withLenf_block (l : Byte) (s : State) : (s.withLenf l).block = { s.block with lenf := l, lenfReg := l } := rfl

@[simp] theorem state_withLenf_link (l : Byte) (s : State) : (s.withLenf l).link = s.link := rfl

@[simp] theorem state_withLenf_ctl (l : Byte) (s : State) : (s.withLenf l).ctl = s.ctl := rfl

@[simp] theorem state_withLenf_sched (l : Byte) (s : State) : (s.withLenf l).sched = s.sched := rfl

@[simp] theorem state_withLenf_draws (l : Byte) (s : State) : (s.withLenf l).draws = s.draws := rfl

@[simp] theorem state_withLenf_turns (l : Byte) (s : State) : (s.withLenf l).turns = s.turns := rfl

/-! ### State.withCrc -/

@[simp] theorem state_withCrc_block (c : Half) (s : State) : (s.withCrc c).block = { s.block with crc := c, fcsAcc := c } := rfl

@[simp] theorem state_withCrc_link (c : Half) (s : State) : (s.withCrc c).link = s.link := rfl

@[simp] theorem state_withCrc_ctl (c : Half) (s : State) : (s.withCrc c).ctl = s.ctl := rfl

@[simp] theorem state_withCrc_sched (c : Half) (s : State) : (s.withCrc c).sched = s.sched := rfl

@[simp] theorem state_withCrc_draws (c : Half) (s : State) : (s.withCrc c).draws = s.draws := rfl

@[simp] theorem state_withCrc_turns (c : Half) (s : State) : (s.withCrc c).turns = s.turns := rfl

/-! ### State.applyReset -/

@[simp] theorem state_applyReset_block (s : State) : s.applyReset.block = Block.reset (s.block.epoch + 1) := rfl

@[simp] theorem state_applyReset_link (s : State) : s.applyReset.link = { s.link with unanswered := false } := rfl

@[simp] theorem state_applyReset_ctl (s : State) : s.applyReset.ctl = s.ctl := rfl

@[simp] theorem state_applyReset_sched (s : State) : s.applyReset.sched = s.sched := rfl

@[simp] theorem state_applyReset_draws (s : State) : s.applyReset.draws = s.draws := rfl

@[simp] theorem state_applyReset_turns (s : State) : s.applyReset.turns = s.turns := rfl

/-! ### State.flush -/

@[simp] theorem state_flush_block (s : State) : s.flush.block = s.block := rfl

@[simp] theorem state_flush_link (s : State) : s.flush.link = { s.link with rxStream := [] } := rfl

@[simp] theorem state_flush_ctl (s : State) : s.flush.ctl = s.ctl := rfl

@[simp] theorem state_flush_sched (s : State) : s.flush.sched = s.sched := rfl

@[simp] theorem state_flush_draws (s : State) : s.flush.draws = s.draws := rfl

@[simp] theorem state_flush_turns (s : State) : s.flush.turns = s.turns := rfl

/-! ### State.takeRxBytes -/

@[simp] theorem state_takeRxBytes_block (n : Nat) (s : State) : (s.takeRxBytes n).block = s.block := rfl

@[simp] theorem state_takeRxBytes_link (n : Nat) (s : State) : (s.takeRxBytes n).link = { s.link with rxStream := s.link.rxStream.drop n } := rfl

@[simp] theorem state_takeRxBytes_ctl (n : Nat) (s : State) : (s.takeRxBytes n).ctl = s.ctl := rfl

@[simp] theorem state_takeRxBytes_sched (n : Nat) (s : State) : (s.takeRxBytes n).sched = s.sched := rfl

@[simp] theorem state_takeRxBytes_draws (n : Nat) (s : State) : (s.takeRxBytes n).draws = s.draws + 1 := rfl

@[simp] theorem state_takeRxBytes_turns (n : Nat) (s : State) : (s.takeRxBytes n).turns = s.turns := rfl

/-! ### State.holdByte -/

@[simp] theorem state_holdByte_block (v : Byte) (s : State) : (s.holdByte v).block = s.block := rfl

@[simp] theorem state_holdByte_link (v : Byte) (s : State) : (s.holdByte v).link = { s.link with rxStream := s.link.rxStream ++ [v] } := rfl

@[simp] theorem state_holdByte_ctl (v : Byte) (s : State) : (s.holdByte v).ctl = s.ctl := rfl

@[simp] theorem state_holdByte_sched (v : Byte) (s : State) : (s.holdByte v).sched = s.sched := rfl

@[simp] theorem state_holdByte_draws (v : Byte) (s : State) : (s.holdByte v).draws = s.draws := rfl

@[simp] theorem state_holdByte_turns (v : Byte) (s : State) : (s.holdByte v).turns = s.turns := rfl

/-! ### State.answerBytes -/

@[simp] theorem state_answerBytes_block (s : State) : s.answerBytes.block = s.block := rfl

@[simp] theorem state_answerBytes_link (s : State) : s.answerBytes.link = { s.link with rxAnswers := .bytes :: s.link.rxAnswers } := rfl

@[simp] theorem state_answerBytes_ctl (s : State) : s.answerBytes.ctl = s.ctl := rfl

@[simp] theorem state_answerBytes_sched (s : State) : s.answerBytes.sched = s.sched := rfl

@[simp] theorem state_answerBytes_draws (s : State) : s.answerBytes.draws = s.draws := rfl

@[simp] theorem state_answerBytes_turns (s : State) : s.answerBytes.turns = s.turns := rfl

/-- The state is busy exactly when `st` is not IDLE (10_state R25). -/
theorem busy_eq_true_iff (s : State) : s.busy = true ↔ s.block.st ≠ .idle := by
  simp [State.busy, Block.busy]

theorem busy_eq_false_iff (s : State) : s.busy = false ↔ s.block.st = .idle := by
  simp [State.busy, Block.busy]

end Sys2Proof.Machine
end

