-- ==== Sys2Proof/Laws/Transport.lean ====
section
/-!
SUPPORT. What a transport transaction, a transmit step and a receive step can do, said once.
-/

namespace Sys2Proof.Machine

/-- The state after a transmit transaction that delivered `sent`. -/
def State.afterTx (sent : List Byte) (answers : List TxAnswer) (d : Nat) (s : State) : State :=
  { s with link.txStream := s.link.txStream ++ sent, link.txAnswers := answers, draws := d }

/-- The state after a receive transaction that left the transport holding `held`. -/
def State.afterRx (held : List Byte) (answers : List RxAnswer) (d : Nat) (s : State) : State :=
  { s with link.rxStream := held, link.rxAnswers := answers, draws := d }

/-- The state in which the transaction in progress is one the environment never answers (70_reset R281 (a)). -/
def State.afterNone (txs : List TxAnswer) (rxs : List RxAnswer) (d : Nat) (s : State) : State :=
  { s with link.unanswered := true, link.txAnswers := txs, link.rxAnswers := rxs, draws := d }

/-- The environment does not answer a transmit transaction made now. -/
def State.NoTxAnswer (s : State) : Prop := s.link.unanswered = true ∨ s.nextTxAnswer = .never

/-- The environment does not answer a receive transaction made now. -/
def State.NoRxAnswer (s : State) : Prop := s.link.unanswered = true ∨ s.nextRxAnswer = .never

@[simp] theorem afterTx_block (b a d) (s : State) : (s.afterTx b a d).block = s.block := rfl
@[simp] theorem afterTx_ctl (b a d) (s : State) : (s.afterTx b a d).ctl = s.ctl := rfl
@[simp] theorem afterTx_sched (b a d) (s : State) : (s.afterTx b a d).sched = s.sched := rfl
@[simp] theorem afterTx_txStream (b a d) (s : State) : (s.afterTx b a d).link.txStream = s.link.txStream ++ b := rfl
@[simp] theorem afterTx_txAnswers (b a d) (s : State) : (s.afterTx b a d).link.txAnswers = a := rfl
@[simp] theorem afterTx_rxStream (b a d) (s : State) : (s.afterTx b a d).link.rxStream = s.link.rxStream := rfl
@[simp] theorem afterTx_rxAnswers (b a d) (s : State) : (s.afterTx b a d).link.rxAnswers = s.link.rxAnswers := rfl
@[simp] theorem afterTx_draws (b a d) (s : State) : (s.afterTx b a d).draws = d := rfl
@[simp] theorem afterTx_turns (b a d) (s : State) : (s.afterTx b a d).turns = s.turns := rfl
@[simp] theorem afterTx_unanswered (b a d) (s : State) : (s.afterTx b a d).link.unanswered = s.link.unanswered := rfl
@[simp] theorem afterRx_block (b a d) (s : State) : (s.afterRx b a d).block = s.block := rfl
@[simp] theorem afterRx_ctl (b a d) (s : State) : (s.afterRx b a d).ctl = s.ctl := rfl
@[simp] theorem afterRx_sched (b a d) (s : State) : (s.afterRx b a d).sched = s.sched := rfl
@[simp] theorem afterRx_txStream (b a d) (s : State) : (s.afterRx b a d).link.txStream = s.link.txStream := rfl
@[simp] theorem afterRx_txAnswers (b a d) (s : State) : (s.afterRx b a d).link.txAnswers = s.link.txAnswers := rfl
@[simp] theorem afterRx_rxStream (b a d) (s : State) : (s.afterRx b a d).link.rxStream = b := rfl
@[simp] theorem afterRx_rxAnswers (b a d) (s : State) : (s.afterRx b a d).link.rxAnswers = a := rfl
@[simp] theorem afterRx_draws (b a d) (s : State) : (s.afterRx b a d).draws = d := rfl
@[simp] theorem afterRx_turns (b a d) (s : State) : (s.afterRx b a d).turns = s.turns := rfl
@[simp] theorem afterRx_unanswered (b a d) (s : State) : (s.afterRx b a d).link.unanswered = s.link.unanswered := rfl
@[simp] theorem afterNone_block (b a d) (s : State) : (s.afterNone b a d).block = s.block := rfl
@[simp] theorem afterNone_ctl (b a d) (s : State) : (s.afterNone b a d).ctl = s.ctl := rfl
@[simp] theorem afterNone_sched (b a d) (s : State) : (s.afterNone b a d).sched = s.sched := rfl
@[simp] theorem afterNone_txStream (b a d) (s : State) : (s.afterNone b a d).link.txStream = s.link.txStream := rfl
@[simp] theorem afterNone_rxStream (b a d) (s : State) : (s.afterNone b a d).link.rxStream = s.link.rxStream := rfl
@[simp] theorem afterNone_turns (b a d) (s : State) : (s.afterNone b a d).turns = s.turns := rfl
@[simp] theorem afterNone_unanswered (b a d) (s : State) : (s.afterNone b a d).link.unanswered = true := rfl

/-! ## Taking an answer -/

theorem dropTxAnswer_eq (s : State) :
    ∃ answers d, s.dropTxAnswer = { s with link.txAnswers := answers, draws := d } := by
  unfold State.dropTxAnswer
  split
  · exact ⟨_, s.draws, rfl⟩
  · exact ⟨s.link.txAnswers, _, rfl⟩

theorem dropRxAnswer_eq (s : State) :
    ∃ answers d, s.dropRxAnswer = { s with link.rxAnswers := answers, draws := d } := by
  unfold State.dropRxAnswer
  split
  · exact ⟨_, s.draws, rfl⟩
  · exact ⟨s.link.rxAnswers, _, rfl⟩

@[simp] theorem dropTxAnswer_block (s : State) : s.dropTxAnswer.block = s.block := by
  obtain ⟨a, d, h⟩ := dropTxAnswer_eq s; rw [h]

@[simp] theorem dropRxAnswer_block (s : State) : s.dropRxAnswer.block = s.block := by
  obtain ⟨a, d, h⟩ := dropRxAnswer_eq s; rw [h]

/-! ## TxGroup -/

/-- With a transaction in progress that is never answered, `TxGroup` changes nothing. -/
theorem txGroup_unanswered {s : State} (bs : List Byte) (h : s.link.unanswered = true) :
    txGroup bs s = (.unanswered, s) := by
  simp [txGroup, h]

/-- A state whose transaction in progress is never answered is its own `afterNone`. -/
theorem afterNone_self {s : State} (h : s.link.unanswered = true) :
    s = s.afterNone s.link.txAnswers s.link.rxAnswers s.draws := by
  obtain ⟨block, ⟨tx, rx, txs, rxs, un⟩, ctl, sched, draws, turns⟩ := s
  simp only at h
  rw [h]
  rfl

/-- What `TxGroup` can do: append the group, append a prefix of it and fail, or never be answered. -/
theorem txGroup_cases (bs : List Byte) (s : State) :
    (∃ answers d, s.link.unanswered = false ∧ s.nextTxAnswer = .accepted ∧ txGroup bs s =
      (.accepted, s.afterTx bs answers d)) ∨
    (∃ k answers d, s.link.unanswered = false ∧ s.nextTxAnswer = .writeFail k ∧ txGroup bs s =
      (.writeFail, s.afterTx (bs.take k) answers d)) ∨
    (∃ txs rxs d, s.NoTxAnswer ∧ txGroup bs s = (.unanswered, s.afterNone txs rxs d)) := by
  cases hu : s.link.unanswered with
  | true => exact .inr (.inr ⟨_, _, _, .inl hu, by rw [txGroup_unanswered bs hu, ← afterNone_self hu]⟩)
  | false =>
    obtain ⟨a, d, h⟩ := dropTxAnswer_eq s
    cases hn : s.nextTxAnswer with
    | accepted => exact .inl ⟨a, d, rfl, rfl, by simp [txGroup, hu, hn, h, State.afterTx]⟩
    | writeFail k => exact .inr (.inl ⟨k, a, d, rfl, rfl, by simp [txGroup, hu, hn, h, State.afterTx]⟩)
    | never =>
      exact .inr (.inr ⟨a, s.link.rxAnswers, d, .inr hn, by simp [txGroup, hu, hn, h, State.afterNone]⟩)

/-- A transmit transaction whose answer is scripted as accepted. -/
theorem txGroup_accepted {s : State} {rest : List TxAnswer} (bs : List Byte) (hu : s.link.unanswered = false)
    (h : s.link.txAnswers = .accepted :: rest) :
    txGroup bs s = (.accepted, s.afterTx bs rest s.draws) := by
  simp [txGroup, State.nextTxAnswer, State.dropTxAnswer, State.afterTx, h, hu]

/-- What a transmit step can do. -/
theorem transmit_cases (bs : List Byte) (written next : State → State) (s : State) :
    (∃ answers d, s.link.unanswered = false ∧ s.nextTxAnswer = .accepted ∧ transmit bs written next s =
      next (written (s.afterTx bs answers d))) ∨
    (∃ k answers d, s.link.unanswered = false ∧ s.nextTxAnswer = .writeFail k ∧ transmit bs written next s =
      State.finish .transportWrite (written (s.afterTx (bs.take k) answers d))) ∨
    (∃ txs rxs d, s.NoTxAnswer ∧ transmit bs written next s = s.afterNone txs rxs d) := by
  unfold transmit
  rcases txGroup_cases bs s with ⟨a, d, hu, hn, h⟩ | ⟨k, a, d, hu, hn, h⟩ | ⟨a, b, d, hn, h⟩
  · exact .inl ⟨a, d, hu, hn, by rw [h]⟩
  · exact .inr (.inl ⟨k, a, d, hu, hn, by rw [h]⟩)
  · exact .inr (.inr ⟨a, b, d, hn, by rw [h]⟩)

theorem transmit_accepted {s : State} {rest : List TxAnswer} (bs : List Byte) (written next : State → State)
    (hu : s.link.unanswered = false) (h : s.link.txAnswers = .accepted :: rest) :
    transmit bs written next s = next (written (s.afterTx bs rest s.draws)) := by
  simp [transmit, txGroup_accepted bs hu h]

theorem transmit_unanswered {s : State} (bs : List Byte) (written next : State → State)
    (h : s.link.unanswered = true) : transmit bs written next s = s := by
  simp [transmit, txGroup_unanswered bs h]

/-! ## RxGroup -/

theorem nextRxBytes_length (n : Nat) (s : State) : (s.nextRxBytes n).length = n := by
  simp [State.nextRxBytes]; omega

/-- As far as the transport holds bytes, those are the ones delivered. -/
theorem nextRxBytes_take (n : Nat) (s : State) :
    (s.nextRxBytes n).take s.link.rxStream.length = s.link.rxStream.take n := by
  unfold State.nextRxBytes
  by_cases h : s.link.rxStream.length ≤ n
  · rw [List.take_of_length_le h, List.take_append_of_le_length (le_refl _), List.take_length]
  · have h0 : n - s.link.rxStream.length = 0 := by omega
    simp only [h0, List.range_zero, List.map_nil, List.append_nil]
    rw [List.take_of_length_le]
    simp

theorem nextRxBytes_held {n : Nat} {s : State} (h : n ≤ s.link.rxStream.length) :
    s.nextRxBytes n = s.link.rxStream.take n := by
  have h0 : n - s.link.rxStream.length = 0 := by omega
  simp [State.nextRxBytes, h0]

/-- With a transaction in progress that is never answered, `RxGroup` changes nothing. -/
theorem rxGroup_unanswered {s : State} (n : Nat) (h : s.link.unanswered = true) :
    rxGroup n s = (.unanswered, s) := by
  simp [rxGroup, h]

/-- What `RxGroup` can do: deliver `n` bytes, time out, or never be answered. -/
theorem rxGroup_cases (n : Nat) (s : State) :
    (∃ bs answers d, s.link.unanswered = false ∧ s.nextRxAnswer = .bytes ∧ bs.length = n ∧
      bs.take s.link.rxStream.length = s.link.rxStream.take n ∧ rxGroup n s =
        (.bytes bs, s.afterRx (s.link.rxStream.drop n) answers d)) ∨
    (∃ k answers d, s.link.unanswered = false ∧ s.nextRxAnswer = .timeout k ∧ rxGroup n s =
      (.timeout, s.afterRx (s.link.rxStream.drop k) answers d)) ∨
    (∃ txs rxs d, s.NoRxAnswer ∧ rxGroup n s = (.unanswered, s.afterNone txs rxs d)) := by
  cases hu : s.link.unanswered with
  | true => exact .inr (.inr ⟨_, _, _, .inl hu, by rw [rxGroup_unanswered n hu, ← afterNone_self hu]⟩)
  | false =>
    obtain ⟨a, d, h⟩ := dropRxAnswer_eq s
    cases hn : s.nextRxAnswer with
    | bytes =>
      refine .inl ⟨s.dropRxAnswer.nextRxBytes n, a, d + 1, rfl, rfl, nextRxBytes_length _ _, ?_, ?_⟩
      · have := nextRxBytes_take n s.dropRxAnswer
        rw [h] at this ⊢; exact this
      · simp [rxGroup, hu, hn, h, State.takeRxBytes, State.afterRx]
    | timeout k => exact .inr (.inl ⟨k, a, d, rfl, rfl, by simp [rxGroup, hu, hn, h, State.afterRx]⟩)
    | never =>
      exact .inr (.inr ⟨s.link.txAnswers, a, d, .inr hn, by simp [rxGroup, hu, hn, h, State.afterNone]⟩)

/-- A receive transaction whose answer is scripted as bytes the transport holds. -/
theorem rxGroup_held {n : Nat} {s : State} {rest : List RxAnswer} (hu : s.link.unanswered = false)
    (hans : s.link.rxAnswers = .bytes :: rest) (h : n ≤ s.link.rxStream.length) :
    rxGroup n s =
      (.bytes (s.link.rxStream.take n),
        s.afterRx (s.link.rxStream.drop n) rest (s.draws + 1)) := by
  simp only [rxGroup, State.nextRxAnswer, State.dropRxAnswer, hans, hu]
  simp [hu, State.takeRxBytes, State.nextRxBytes, State.afterRx, show n - s.link.rxStream.length = 0 by omega]

/-- What a receive step can do. -/
theorem receive_cases (n : Nat) (next : List Byte → State → State) (s : State) :
    (∃ bs answers d, s.link.unanswered = false ∧ s.nextRxAnswer = .bytes ∧ bs.length = n ∧
      bs.take s.link.rxStream.length = s.link.rxStream.take n ∧ receive n next s =
        next bs (s.afterRx (s.link.rxStream.drop n) answers d)) ∨
    (∃ k answers d, s.link.unanswered = false ∧ s.nextRxAnswer = .timeout k ∧ receive n next s =
      State.finish .timeout (s.afterRx (s.link.rxStream.drop k) answers d)) ∨
    (∃ txs rxs d, s.NoRxAnswer ∧ receive n next s = s.afterNone txs rxs d) := by
  unfold receive
  rcases rxGroup_cases n s with ⟨bs, a, d, hu, hn, hl, ht, h⟩ | ⟨k, a, d, hu, hn, h⟩ | ⟨a, b, d, hn, h⟩
  · exact .inl ⟨bs, a, d, hu, hn, hl, ht, by rw [h]⟩
  · exact .inr (.inl ⟨k, a, d, hu, hn, by rw [h]⟩)
  · exact .inr (.inr ⟨a, b, d, hn, by rw [h]⟩)

/-- What a one-byte receive step can do. -/
theorem receiveByte_cases (next : Byte → State → State) (s : State) :
    (∃ b answers d, s.link.unanswered = false ∧ s.nextRxAnswer = .bytes ∧
      (∀ c rest, s.link.rxStream = c :: rest → b = c) ∧ receiveByte next s =
        next b (s.afterRx (s.link.rxStream.drop 1) answers d)) ∨
    (∃ k answers d, s.link.unanswered = false ∧ s.nextRxAnswer = .timeout k ∧ receiveByte next s =
      State.finish .timeout (s.afterRx (s.link.rxStream.drop k) answers d)) ∨
    (∃ txs rxs d, s.NoRxAnswer ∧ receiveByte next s = s.afterNone txs rxs d) := by
  unfold receiveByte
  rcases receive_cases 1 (fun bs => next (bs.headD 0x00#8)) s with ⟨bs, a, d, hu, hn, hl, ht, h⟩ | h
  · obtain ⟨b, rfl⟩ := List.length_eq_one_iff.1 hl
    refine .inl ⟨b, a, d, hu, hn, fun c rest hc => ?_, h⟩
    simpa [hc] using ht
  · exact .inr h

theorem receive_held {n : Nat} {s : State} {rest : List RxAnswer} (next : List Byte → State → State)
    (hu : s.link.unanswered = false) (hans : s.link.rxAnswers = .bytes :: rest) (h : n ≤ s.link.rxStream.length) :
    receive n next s =
      next (s.link.rxStream.take n)
        (s.afterRx (s.link.rxStream.drop n) rest (s.draws + 1)) := by
  simp [receive, rxGroup_held hu hans h]

theorem receiveByte_held {s : State} {rest : List RxAnswer} {b : Byte} {held : List Byte}
    (next : Byte → State → State) (hu : s.link.unanswered = false) (hans : s.link.rxAnswers = .bytes :: rest)
    (h : s.link.rxStream = b :: held) :
    receiveByte next s =
      next b (s.afterRx held rest (s.draws + 1)) := by
  unfold receiveByte
  rw [receive_held _ hu hans (by simp [h])]
  simp [h]

theorem receive_unanswered {s : State} (n : Nat) (next : List Byte → State → State) (h : s.link.unanswered = true) :
    receive n next s = s := by
  simp [receive, rxGroup_unanswered n h]

theorem receiveByte_unanswered {s : State} (next : Byte → State → State) (h : s.link.unanswered = true) :
    receiveByte next s = s :=
  receive_unanswered 1 _ h

end Sys2Proof.Machine
end

