-- ==== Sys2Proof/Laws/Steps.lean ====
section
/-!
SUPPORT. What each step of the block can do, one inversion lemma per step, written out to the state it leaves.
-/

namespace Sys2Proof.Machine

/-- An idle block does not step (10_state R43). -/
theorem blockStep_idle {s : State} (h : s.block.st = .idle) : blockStep s = s := by
  simp [blockStep, h]

theorem stepC1_cases (s : State) :
    (Config.bufBytes < s.block.nbytes.toNat ∧ stepC1 s = s.finish .badLength) ∨
    (s.block.nbytes.toNat ≤ Config.bufBytes ∧ stepC1 s =
      State.finish .ok (s.withCrc (compute s.block.seed s.block.payload))) := by
  unfold stepC1
  split
  · exact .inl ⟨by assumption, rfl⟩
  · exact .inr ⟨by omega, rfl⟩

theorem stepS1_cases (s : State) :
    (lengthOk s.block.nbytes.toNat = false ∧ stepS1 s = s.finish .badLength) ∨
    (lengthOk s.block.nbytes.toNat = true ∧
      ((∃ a d, stepS1 s = State.goto .s2 (s.afterTx [s.block.opc] a d)) ∨
       (∃ k a d, stepS1 s = State.finish .transportWrite (s.afterTx ([s.block.opc].take k) a d)) ∨
       (∃ a b d, s.NoTxAnswer ∧ stepS1 s = s.afterNone a b d))) := by
  unfold stepS1
  by_cases hl : lengthOk s.block.nbytes.toNat = true
  · rw [if_pos hl]
    refine .inr ⟨hl, ?_⟩
    rcases transmit_cases [s.block.opc] id (State.goto .s2) s with
      ⟨a, d, -, -, h⟩ | ⟨k, a, d, -, -, h⟩ | h
    · exact .inl ⟨a, d, h⟩
    · exact .inr (.inl ⟨k, a, d, h⟩)
    · exact .inr (.inr h)
  · rw [if_neg hl]
    exact .inl ⟨by simpa using hl, rfl⟩

theorem stepS2_cases (s : State) :
    (∃ k a d, stepS2 s = State.finish .timeout (s.afterRx (s.link.rxStream.drop k) a d)) ∨
    (∃ v a d, (∀ c rest, s.link.rxStream = c :: rest → v = c) ∧
      ((v = Config.tokenF ∧ stepS2 s =
          State.finishWith .deviceNotReady v (s.afterRx (s.link.rxStream.drop 1) a d)) ∨
       (v ≠ Config.tokenF ∧ v ≠ Config.tokenO ∧ stepS2 s =
          State.finishWith .unexpectedAck v (s.afterRx (s.link.rxStream.drop 1) a d)) ∨
       (v = Config.tokenO ∧ stepS2 s = State.goto .s3 (s.afterRx (s.link.rxStream.drop 1) a d)))) ∨
    (∃ a b d, s.NoRxAnswer ∧ stepS2 s = s.afterNone a b d) := by
  unfold stepS2
  rcases receiveByte_cases _ s with ⟨v, a, d, -, -, hv, h⟩ | ⟨k, a, d, -, -, h⟩ | h
  · refine .inr (.inl ⟨v, a, d, hv, ?_⟩)
    rw [h]
    by_cases h1 : v = Config.tokenF
    · exact .inl ⟨h1, by rw [if_pos h1]⟩
    · by_cases h2 : v = Config.tokenO
      · exact .inr (.inr ⟨h2, by rw [if_neg h1, if_neg (not_not.2 h2)]⟩)
      · exact .inr (.inl ⟨h1, h2, by rw [if_neg h1, if_pos h2]⟩)
  · exact .inl ⟨k, a, d, h⟩
  · exact .inr (.inr h)

theorem stepS3_cases (s : State) :
    (∃ a d, stepS3 s = State.goto .s4
      ((s.withLenf (lenField s.block.nbytes.toNat)).afterTx [lenField s.block.nbytes.toNat] a d)) ∨
    (∃ k a d, stepS3 s = State.finish .transportWrite
      ((s.withLenf (lenField s.block.nbytes.toNat)).afterTx ([lenField s.block.nbytes.toNat].take k) a d)) ∨
    (∃ a b d, s.NoTxAnswer ∧ stepS3 s = s.afterNone a b d) := by
  unfold stepS3
  rcases transmit_cases [lenField s.block.nbytes.toNat] (State.withLenf (lenField s.block.nbytes.toNat))
    (State.goto .s4) s with ⟨a, d, -, -, h⟩ | ⟨k, a, d, -, -, h⟩ | h
  · exact .inl ⟨a, d, h⟩
  · exact .inr (.inl ⟨k, a, d, h⟩)
  · exact .inr (.inr h)

theorem stepS4_cases (s : State) :
    (∃ a d, stepS4 s = State.goto .s5 (s.afterTx s.block.payload a d)) ∨
    (∃ k a d, stepS4 s = State.finish .transportWrite (s.afterTx (s.block.payload.take k) a d)) ∨
    (∃ a b d, s.NoTxAnswer ∧ stepS4 s = s.afterNone a b d) := by
  unfold stepS4
  rcases transmit_cases s.block.payload id (State.goto .s5) s with
    ⟨a, d, -, -, h⟩ | ⟨k, a, d, -, -, h⟩ | h
  · exact .inl ⟨a, d, h⟩
  · exact .inr (.inl ⟨k, a, d, h⟩)
  · exact .inr (.inr h)

theorem stepS5_cases (s : State) (c : Half) (hc : c = fcs s.block.opc s.block.lenf s.block.payload) :
    (∃ a d, stepS5 s = State.goto .s6 ((s.withCrc c).afterTx [lo8 c, hi8 c] a d)) ∨
    (∃ k a d, stepS5 s = State.finish .transportWrite ((s.withCrc c).afterTx ([lo8 c, hi8 c].take k) a d)) ∨
    (∃ a b d, s.NoTxAnswer ∧ stepS5 s = s.afterNone a b d) := by
  subst hc
  unfold stepS5
  rcases transmit_cases [lo8 (fcs s.block.opc s.block.lenf s.block.payload),
    hi8 (fcs s.block.opc s.block.lenf s.block.payload)]
    (State.withCrc (fcs s.block.opc s.block.lenf s.block.payload)) (State.goto .s6) s with
    ⟨a, d, -, -, h⟩ | ⟨k, a, d, -, -, h⟩ | h
  · exact .inl ⟨a, d, h⟩
  · exact .inr (.inl ⟨k, a, d, h⟩)
  · exact .inr (.inr h)

theorem stepS6_cases (s : State) :
    (∃ k a d, stepS6 s = State.finish .timeout (s.afterRx (s.link.rxStream.drop k) a d)) ∨
    (∃ v a d, (∀ c rest, s.link.rxStream = c :: rest → v = c) ∧
      ((v ≠ Config.tokenO ∧ stepS6 s =
          State.finishWith .deviceRejectedFrame v (s.afterRx (s.link.rxStream.drop 1) a d)) ∨
       (v = Config.tokenO ∧ stepS6 s = State.finish .ok (s.afterRx (s.link.rxStream.drop 1) a d)))) ∨
    (∃ a b d, s.NoRxAnswer ∧ stepS6 s = s.afterNone a b d) := by
  unfold stepS6
  rcases receiveByte_cases _ s with ⟨v, a, d, -, -, hv, h⟩ | ⟨k, a, d, -, -, h⟩ | h
  · refine .inr (.inl ⟨v, a, d, hv, ?_⟩)
    rw [h]
    by_cases h2 : v = Config.tokenO
    · exact .inr ⟨h2, by rw [if_neg (not_not.2 h2)]⟩
    · exact .inl ⟨h2, by rw [if_pos h2]⟩
  · exact .inl ⟨k, a, d, h⟩
  · exact .inr (.inr h)

theorem stepR1_cases (s : State) :
    (lengthOk s.block.nbytes.toNat = false ∧ stepR1 s = s.finish .badLength) ∨
    (lengthOk s.block.nbytes.toNat = true ∧
      ((∃ k a d, stepR1 s = State.finish .timeout (s.afterRx (s.link.rxStream.drop k) a d)) ∨
       (∃ v a d, (∀ c rest, s.link.rxStream = c :: rest → v = c) ∧
        ((v ≠ Config.responseOpcode ∧ stepR1 s =
            State.finishWith .unexpectedOpcode v (s.afterRx (s.link.rxStream.drop 1) a d)) ∨
         (v = Config.responseOpcode ∧ stepR1 s = State.goto .r2 (s.afterRx (s.link.rxStream.drop 1) a d)))) ∨
       (∃ a b d, s.NoRxAnswer ∧ stepR1 s = s.afterNone a b d))) := by
  unfold stepR1
  by_cases hl : lengthOk s.block.nbytes.toNat = true
  · rw [if_pos hl]
    refine .inr ⟨hl, ?_⟩
    rcases receiveByte_cases _ s with ⟨v, a, d, -, -, hv, h⟩ | ⟨k, a, d, -, -, h⟩ | h
    · refine .inr (.inl ⟨v, a, d, hv, ?_⟩)
      rw [h]
      by_cases h2 : v = Config.responseOpcode
      · exact .inr ⟨h2, by rw [if_neg (not_not.2 h2)]⟩
      · exact .inl ⟨h2, by rw [if_pos h2]⟩
    · exact .inl ⟨k, a, d, h⟩
    · exact .inr (.inr h)
  · rw [if_neg hl]
    exact .inl ⟨by simpa using hl, rfl⟩

theorem stepR2_cases (s : State) :
    (∃ a d, stepR2 s = State.goto .r3 (s.afterTx [Config.tokenO] a d)) ∨
    (∃ k a d, stepR2 s = State.finish .transportWrite (s.afterTx ([Config.tokenO].take k) a d)) ∨
    (∃ a b d, s.NoTxAnswer ∧ stepR2 s = s.afterNone a b d) := by
  unfold stepR2
  rcases transmit_cases [Config.tokenO] id (State.goto .r3) s with
    ⟨a, d, -, -, h⟩ | ⟨k, a, d, -, -, h⟩ | h
  · exact .inl ⟨a, d, h⟩
  · exact .inr (.inl ⟨k, a, d, h⟩)
  · exact .inr (.inr h)

theorem stepR3_cases (s : State) :
    (∃ k a d, stepR3 s = State.finish .timeout (s.afterRx (s.link.rxStream.drop k) a d)) ∨
    (∃ v a d, (∀ c rest, s.link.rxStream = c :: rest → v = c) ∧
      ((v ≠ lenField s.block.nbytes.toNat ∧ stepR3 s =
          State.finishWith .lengthMismatch v ((s.withLenf v).afterRx (s.link.rxStream.drop 1) a d)) ∨
       (v = lenField s.block.nbytes.toNat ∧ stepR3 s =
          State.goto .r4 ((s.withLenf v).afterRx (s.link.rxStream.drop 1) a d)))) ∨
    (∃ a b d, s.NoRxAnswer ∧ stepR3 s = s.afterNone a b d) := by
  unfold stepR3
  rcases receiveByte_cases _ s with ⟨v, a, d, -, -, hv, h⟩ | ⟨k, a, d, -, -, h⟩ | h
  · refine .inr (.inl ⟨v, a, d, hv, ?_⟩)
    rw [h]
    by_cases h2 : v = lenField s.block.nbytes.toNat
    · exact .inr ⟨h2, if_neg (not_not.2 h2)⟩
    · exact .inl ⟨h2, if_pos h2⟩
  · exact .inl ⟨k, a, d, h⟩
  · exact .inr (.inr h)

/-- The state with bytes written to BUF from index 0 on. -/
def State.withBuf (bs : List Byte) (s : State) : State :=
  { s with block.buf := s.block.buf.writeBytes 0 bs }

theorem stepR4_cases (s : State) :
    (∃ bs a d, bs.length = s.block.nbytes.toNat ∧
      bs.take s.link.rxStream.length = s.link.rxStream.take s.block.nbytes.toNat ∧
      stepR4 s = State.goto .r5 ((s.withBuf bs).afterRx (s.link.rxStream.drop s.block.nbytes.toNat) a d)) ∨
    (∃ k a d e, stepR4 s = State.finish .timeout
      ((s.withBuf (timeoutBytes e s.block.nbytes.toNat)).afterRx (s.link.rxStream.drop k) a d)) ∨
    (∃ a b d, s.NoRxAnswer ∧ stepR4 s = s.afterNone a b d) := by
  unfold stepR4
  rcases rxGroup_cases s.block.nbytes.toNat s with
    ⟨bs, a, d, -, -, hl, ht, h⟩ | ⟨k, a, d, -, -, h⟩ | ⟨a, b, d, hn, h⟩
  · exact .inl ⟨bs, a, d, hl, ht, by simp only [h]; rfl⟩
  · exact .inr (.inl ⟨k, a, d + 1, d, by simp only [h]; rfl⟩)
  · exact .inr (.inr ⟨a, b, d, hn, by simp only [h]⟩)

/-- The state with a received checksum in RXCRC. -/
def State.withRxcrc (c : Half) (s : State) : State := { s with block.rxcrc := c }

theorem stepR5_cases (s : State) :
    (∃ k a d, stepR5 s = State.finish .timeout (s.afterRx (s.link.rxStream.drop k) a d)) ∨
    (∃ c0 c1 a d, [c0, c1].take s.link.rxStream.length = s.link.rxStream.take 2 ∧
      stepR5 s = State.goto .r6
        (((s.withRxcrc (le16 c0 c1)).withCrc (fcs Config.responseOpcode s.block.lenf s.block.payload)).afterRx
          (s.link.rxStream.drop 2) a d)) ∨
    (∃ a b d, s.NoRxAnswer ∧ stepR5 s = s.afterNone a b d) := by
  unfold stepR5
  rcases receive_cases 2 _ s with ⟨bs, a, d, -, -, hl, ht, h⟩ | ⟨k, a, d, -, -, h⟩ | h
  · obtain ⟨c0, c1, rfl⟩ := List.length_eq_two.1 hl
    exact .inr (.inl ⟨c0, c1, a, d, ht, h⟩)
  · exact .inl ⟨k, a, d, h⟩
  · exact .inr (.inr h)

theorem stepR6_cases (s : State) :
    (s.block.rxcrc ≠ s.block.crc ∧
      ((∃ a d, stepR6 s = State.finish .checksumMismatch (s.afterTx [Config.tokenF] a d)) ∨
       (∃ k a d, stepR6 s = State.finish .transportWrite (s.afterTx ([Config.tokenF].take k) a d)))) ∨
    (s.block.rxcrc = s.block.crc ∧
      ((∃ a d, stepR6 s = State.finish .ok (s.afterTx [Config.tokenO] a d)) ∨
       (∃ k a d, stepR6 s = State.finish .transportWrite (s.afterTx ([Config.tokenO].take k) a d)))) ∨
    (∃ a b d, s.NoTxAnswer ∧ stepR6 s = s.afterNone a b d) := by
  unfold stepR6
  by_cases hc : s.block.rxcrc = s.block.crc
  · rw [if_neg (not_not.2 hc)]
    rcases transmit_cases [Config.tokenO] id (State.finish .ok) s with
      ⟨a, d, -, -, h⟩ | ⟨k, a, d, -, -, h⟩ | h
    · exact .inr (.inl ⟨hc, .inl ⟨a, d, h⟩⟩)
    · exact .inr (.inl ⟨hc, .inr ⟨k, a, d, h⟩⟩)
    · exact .inr (.inr h)
  · rw [if_pos hc]
    rcases transmit_cases [Config.tokenF] id (State.finish .checksumMismatch) s with
      ⟨a, d, -, -, h⟩ | ⟨k, a, d, -, -, h⟩ | h
    · exact .inl ⟨hc, .inl ⟨a, d, h⟩⟩
    · exact .inl ⟨hc, .inr ⟨k, a, d, h⟩⟩
    · exact .inr (.inr h)

/-- A transaction that is never answered leaves the block where it is (70_reset R281 (a), 93 U7). -/
theorem blockStep_unanswered {s : State} (hu : s.link.unanswered = true) (ht : s.transacts = true) :
    blockStep s = s := by
  unfold State.transacts at ht
  unfold blockStep
  split <;> rename_i hst <;> simp only [hst, Bool.false_eq_true] at ht
  · simp [stepS1, ht, transmit_unanswered _ _ _ hu]
  · simp [stepS2, receiveByte_unanswered _ hu]
  · simp [stepS3, transmit_unanswered _ _ _ hu]
  · simp [stepS4, transmit_unanswered _ _ _ hu]
  · simp [stepS5, transmit_unanswered _ _ _ hu]
  · simp [stepS6, receiveByte_unanswered _ hu]
  · simp [stepR1, ht, receiveByte_unanswered _ hu]
  · simp [stepR2, transmit_unanswered _ _ _ hu]
  · simp [stepR3, receiveByte_unanswered _ hu]
  · simp [stepR4, rxGroup_unanswered _ hu]
  · simp [stepR5, receive_unanswered _ _ hu]
  · simp [stepR6, transmit_unanswered _ _ _ hu]

end Sys2Proof.Machine
end

