-- ==== Sys2Proof/Laws/Moves.lean ====
section
/-!
SUPPORT. What a controller access and a step of the machine can do to the block, said once.
-/

namespace Sys2Proof.Machine

/-! ## Controller accesses -/

/-- A read touches nothing but DATA and the count of draws. -/
theorem hostRead_eq (sel : Option Reg) (s : State) :
    ∃ v d, hostRead sel s = { s with ctl.data := v, draws := d } := by
  unfold hostRead
  split
  · exact ⟨_, s.draws, rfl⟩
  · split
    · exact ⟨_, _, rfl⟩
    · exact ⟨_, s.draws, rfl⟩

@[simp] theorem hostRead_block (sel : Option Reg) (s : State) : (hostRead sel s).block = s.block := by
  obtain ⟨v, d, h⟩ := hostRead_eq sel s; rw [h]

@[simp] theorem hostRead_link (sel : Option Reg) (s : State) : (hostRead sel s).link = s.link := by
  obtain ⟨v, d, h⟩ := hostRead_eq sel s; rw [h]

/-- A write is ignored, faults on a busy block, or is the register write of an idle block. -/
theorem hostWrite_cases (sel : Option Reg) (v : Half) (s : State) :
    hostWrite sel v s = s ∨
    (s.busy = true ∧ hostWrite sel v s = { s with block := s.block.raiseFault }) ∨
    (s.busy = false ∧ ∃ r, r.isReadOnly = false ∧ hostWrite sel v s = { s with block := s.block.writeReg v r }) := by
  unfold hostWrite
  split
  · exact .inl rfl
  · rename_i r
    split
    · exact .inl rfl
    · split
      · exact .inr (.inl ⟨by assumption, rfl⟩)
      · exact .inr (.inr ⟨by simp_all, r, by simp_all, rfl⟩)

/-- A command write on a busy block. -/
theorem commandWrite_busy {s : State} (hi code : Byte) (h : s.busy = true) :
    commandWrite hi code s = { s with block := s.block.raiseFault } := by
  simp [commandWrite, hostWrite, Reg.isReadOnly, h]

/-- A command write on an idle block. -/
theorem commandWrite_idle {s : State} (hi code : Byte) (h : s.busy = false) :
    commandWrite hi code s = { s with block := s.block.startCommand code } := by
  simp [commandWrite, hostWrite, Reg.isReadOnly, h, Block.writeReg, lo8_append]

/-! ## Arrivals -/

/-- A byte that arrives is held, or answers the one-byte group the block waits for. -/
theorem deliverByte_cases (b : Byte) (s : State) :
    (s.awaitsByte = false ∧ deliverByte b s = s.holdByte b) ∨
    (s.awaitsByte = true ∧ s.busy = true ∧ deliverByte b s = blockStep (s.holdByte b).answerBytes) := by
  unfold deliverByte
  split
  · rename_i h
    refine .inr ⟨h, ?_, rfl⟩
    rw [busy_eq_true_iff]
    intro h0
    simp [State.awaitsByte, h0] at h
  · exact .inl ⟨by simp_all, rfl⟩

/-! ## What a step does to the block -/

/-- One move, seen from the block and its transaction: nothing, a refused write while busy, a register write while idle, one
step of the state machine, or reset. -/
def BlockMove (s t : State) : Prop :=
  (t.block = s.block ∧ t.link.unanswered = s.link.unanswered) ∨
  (s.busy = true ∧ t.block = s.block.raiseFault ∧ t.link = s.link) ∨
  (s.busy = false ∧ ∃ r v, Reg.isReadOnly r = false ∧ t.block = s.block.writeReg v r ∧ t.link = s.link) ∨
  (s.busy = true ∧ ∃ u, State.block u = s.block ∧ u.link.unanswered = s.link.unanswered ∧
    t.block = (blockStep u).block ∧ t.link = (blockStep u).link) ∨
  (s.sched.head? = some .reset ∧ t.block = Block.reset (s.block.epoch + 1) ∧ t.link.unanswered = false)

theorem blockMove_same {s t : State} (h : t.block = s.block) (hl : t.link = s.link) : BlockMove s t :=
  .inl ⟨h, by rw [hl]⟩

theorem blockMove_hostWrite (sel : Option Reg) (v : Half) {s u : State} (hb : u.block = s.block)
    (hl : u.link = s.link) : BlockMove s (hostWrite sel v u) := by
  have hbusy : u.busy = s.busy := by simp [State.busy, hb]
  rcases hostWrite_cases sel v u with h | ⟨h0, h⟩ | ⟨h0, r, hr, h⟩ <;> rw [h]
  · exact blockMove_same hb hl
  · exact .inr (.inl ⟨hbusy ▸ h0, by simp [hb], hl⟩)
  · exact .inr (.inr (.inl ⟨hbusy ▸ h0, r, v, hr, by simp [hb], hl⟩))

theorem blockMove_blockStep {s u : State} (hb : u.block = s.block) (hl : u.link.unanswered = s.link.unanswered) :
    BlockMove s (blockStep u) := by
  by_cases h : s.busy = true
  · exact .inr (.inr (.inr (.inl ⟨h, u, hb, hl, rfl, rfl⟩)))
  · have : s.block.st = .idle := by rw [← busy_eq_false_iff]; simpa using h
    rw [blockStep_idle (by rw [hb, this])]
    exact .inl ⟨hb, hl⟩

theorem blockMove_deliverByte (b : Byte) {s u : State} (hb : u.block = s.block) (hl : u.link = s.link) :
    BlockMove s (deliverByte b u) := by
  rcases deliverByte_cases b u with ⟨-, h⟩ | ⟨-, -, h⟩ <;> rw [h]
  · exact .inl ⟨hb, by simp [hl]⟩
  · exact blockMove_blockStep hb (by simp [hl])

theorem blockMove_exec {i : Instr} {s u t : State} (h : exec i u = .next t) (hb : u.block = s.block)
    (hl : u.link = s.link) : BlockMove s t := by
  cases i <;>
    simp only [exec, execHostRd, execHostWr, execCrcRun, execSend, execRecv, execCmdIllegal, execResponse,
      execTokenO, execTokenF, execReadObject, execWriteObject, Host.Outcome.next.injEq] at h <;> subst h
  case hostRd => exact blockMove_same (by simp [hb]) (by simp [hl])
  case response => exact blockMove_deliverByte _ hb hl
  case tokenO => exact blockMove_deliverByte _ hb hl
  case tokenF => exact blockMove_deliverByte _ hb hl
  case readObject => exact blockMove_same hb hl
  case writeObject => exact blockMove_same hb hl
  all_goals exact blockMove_hostWrite _ _ hb hl

/-- The controller's own operations leave the block and the link (30_encoding R109, 43_client_od_layer R203). -/
theorem doWait_frame (again : List CtlOp) (s : State) :
    (doWait again s).block = s.block ∧ (doWait again s).link = s.link := by
  unfold doWait; simp only []; split <;> simp

theorem doCheckResult_frame (s : State) :
    (doCheckResult s).block = s.block ∧ (doCheckResult s).link = s.link := by
  unfold doCheckResult; simp only []; split <;> simp

theorem doCollect_frame (i : Nat) (s : State) :
    (doCollect i s).block = s.block ∧ (doCollect i s).link = s.link := by
  simp [doCollect]

theorem blockMove_controllerMove {s u t : State} (h : controllerMove u = .next t) (hb : u.block = s.block)
    (hl : u.link = s.link) : BlockMove s t := by
  unfold controllerMove at h
  split at h
  · cases h; exact blockMove_same hb hl
  · simp only [] at h
    split at h
    · exact blockMove_exec h hb hl
    · cases h; exact blockMove_same ((doWait_frame _ _).1.trans hb) ((doWait_frame _ _).2.trans hl)
    · split at h
      · exact blockMove_exec h hb hl
      · cases h; exact blockMove_same hb hl
    · cases h; exact blockMove_same ((doCheckResult_frame _).1.trans hb) ((doCheckResult_frame _).2.trans hl)
    · cases h; exact blockMove_same ((doCollect_frame _ _).1.trans hb) ((doCollect_frame _ _).2.trans hl)
    · cases h; exact blockMove_same hb hl
    · cases h; exact blockMove_same hb hl

/-- What a step of the machine can do to the block and its transaction. -/
theorem step_blockMove {s t : State} (h : step s = .next t) : BlockMove s t := by
  simp only [step, stepUnder, Config.protocolVariant, if_true, move] at h
  split at h
  · rename_i e rest hs
    unfold eventMove at h
    split at h
    · exact blockMove_controllerMove h rfl rfl
    · cases h; exact blockMove_blockStep rfl rfl
    · unfold wireMove at h
      split at h
      · exact blockMove_exec h rfl rfl
      · cases h; exact blockMove_deliverByte _ rfl rfl
    · cases h; exact .inl ⟨rfl, rfl⟩
    · cases h; exact .inr (.inr (.inr (.inr ⟨by simp [hs], rfl, rfl⟩)))
  · unfold freeMove at h
    split at h
    · split at h
      · cases h; exact blockMove_blockStep rfl rfl
      · cases h; exact blockMove_blockStep rfl rfl
      · exact blockMove_controllerMove h rfl rfl
    · exact blockMove_controllerMove h rfl rfl

end Sys2Proof.Machine
end

