-- ==== Sys2Proof/Laws/PerInstr.lean ====
section
/-!
SUPPORT. A statement for every instruction: an instruction with its reserved bits zero is encoded as a word of its row of
spec/opcode_table.json (the row's fixed bits, which the mask marks, have the row's values).
-/

namespace Sys2Proof.Laws.TableRow

/-- The row's mask and match for a HOST32 instruction; a wire row fixes all eight bits. -/
def rowOf : Instr → Word × Word
  | .hostRd _ _ _ => (0xFC000000#32, 0x00000000#32)
  | .hostWr _ _ _ => (0xFC000000#32, 0x80000000#32)
  | .crcRun _ => (0xFFFF00FF#32, 0x80000001#32)
  | .send _ => (0xFFFF00FF#32, 0x80000002#32)
  | .recv _ => (0xFFFF00FF#32, 0x80000003#32)
  | .cmdIllegal _ _ => (0xFFFF0000#32, 0x80000000#32)
  | .response => (0xFF#32, 0x00#32)
  | .readObject => (0xFF#32, 0x10#32)
  | .writeObject => (0xFF#32, 0x11#32)
  | .tokenO => (0xFF#32, 0x4F#32)
  | .tokenF => (0xFF#32, 0x46#32)

/-- The reserved bits 30:26 are zero, as the table has them. -/
def reservedZero : Instr → Bool
  | .hostRd rsv _ _ => rsv == 0#5
  | .hostWr rsv _ _ => rsv == 0#5
  | .crcRun _ | .send _ | .recv _ | .cmdIllegal _ _ => true
  | .response | .readObject | .writeObject | .tokenO | .tokenF => true

/-- The bits of a code word. -/
def bitsOf : CodeWord → Word
  | .host32 w => w
  | .wire8 b => b.setWidth 32

/-- The encoded word has the row's fixed bits. -/
def Statement (i : Instr) : Prop :=
  reservedZero i = true → bitsOf (encode i) &&& (rowOf i).1 = (rowOf i).2

/-- The top six bits of an access word. -/
theorem hostWord_top (w : BitVec 1) (reg : BitVec 10) (data : Half) :
    hostWord w 0#5 reg data &&& 0xFC000000#32 = w.setWidth 32 <<< 31 := by
  simp only [hostWord]
  apply BitVec.eq_of_getLsbD_eq
  intro i hi
  have hm : (0xFC000000#32).getLsbD i = decide (26 ≤ i) := by
    revert i; decide
  have h0 : (0#5).getLsbD (i - 10 - 16) = false := by simp
  rw [BitVec.getLsbD_and, hm, BitVec.getLsbD_append, BitVec.getLsbD_append, BitVec.getLsbD_append]
  by_cases h : 31 ≤ i
  · have : i = 31 := by omega
    subst this
    simp
  · by_cases h1 : i < 26
    · simp [show ¬26 ≤ i by omega, h]
    · simp [show ¬i < 16 by omega, show ¬i - 16 < 10 by omega, show i - 16 - 10 < 5 by omega, h]

/-- A bit of a write to CMD. -/
theorem commandWord_bit (hi code : Byte) (i : Nat) :
    (commandWord hi code).getLsbD i =
      if i < 8 then code.getLsbD i else if i < 16 then hi.getLsbD (i - 8) else decide (i = 31) := by
  simp only [commandWord, hostWord]
  rw [BitVec.getLsbD_append, BitVec.getLsbD_append, BitVec.getLsbD_append, BitVec.getLsbD_append]
  by_cases h8 : i < 8
  · simp [h8, show i < 16 by omega]
  · by_cases h16 : i < 16
    · simp [h8, h16]
    · by_cases h26 : i < 26
      · simp [h8, h16, show i - 16 < 10 by omega, show i ≠ 31 by omega]
      · by_cases h31 : i < 31
        · simp [h8, h16, show ¬i - 16 < 10 by omega, show i - 16 - 10 < 5 by omega, show i ≠ 31 by omega]
        · simp [h8, h16, show ¬i - 16 < 10 by omega, show ¬i - 16 - 10 < 5 by omega]
          omega

/-- A write to CMD fixes every bit but DATA[15:8]. -/
theorem commandWord_fixed (hi code : Byte) :
    commandWord hi code &&& 0xFFFF00FF#32 = 0x80000000#32 ||| code.setWidth 32 := by
  apply BitVec.eq_of_getLsbD_eq
  intro i hlt
  have hm : (0xFFFF00FF#32).getLsbD i = decide (i < 8 ∨ 16 ≤ i) := by
    revert i; decide
  have ht : (0x80000000#32).getLsbD i = decide (i = 31) := by
    revert i; decide
  rw [BitVec.getLsbD_and, commandWord_bit, hm, BitVec.getLsbD_or, ht, BitVec.getLsbD_setWidth]
  by_cases h8 : i < 8
  · simp [h8, hlt, show i ≠ 31 by omega]
  · by_cases h16 : i < 16
    · simp [h8, h16, show ¬16 ≤ i by omega, show i ≠ 31 by omega, BitVec.getLsbD_of_ge code i (by omega)]
    · simp [h8, h16, show 16 ≤ i by omega, BitVec.getLsbD_of_ge code i (by omega)]

/-- The upper half of a write to CMD. -/
theorem commandWord_top (hi code : Byte) : commandWord hi code &&& 0xFFFF0000#32 = 0x80000000#32 := by
  apply BitVec.eq_of_getLsbD_eq
  intro i hlt
  have hm : (0xFFFF0000#32).getLsbD i = decide (16 ≤ i) := by
    revert i; decide
  have ht : (0x80000000#32).getLsbD i = decide (i = 31) := by
    revert i; decide
  rw [BitVec.getLsbD_and, commandWord_bit, hm, ht]
  by_cases h16 : i < 16
  · simp [show ¬16 ≤ i by omega, show i ≠ 31 by omega]
  · simp [h16, show ¬i < 8 by omega, show 16 ≤ i by omega]

theorem hostRd (rsv reg data) : Statement (.hostRd rsv reg data) := by
  intro h
  simp only [reservedZero, beq_iff_eq] at h
  subst h
  exact hostWord_top 0#1 reg data

theorem hostWr (rsv reg data) : Statement (.hostWr rsv reg data) := by
  intro h
  simp only [reservedZero, beq_iff_eq] at h
  subst h
  exact hostWord_top 1#1 reg data

theorem crcRun (hi) : Statement (.crcRun hi) := fun _ => commandWord_fixed hi 0x01#8

theorem send (hi) : Statement (.send hi) := fun _ => commandWord_fixed hi 0x02#8

theorem recv (hi) : Statement (.recv hi) := fun _ => commandWord_fixed hi 0x03#8

theorem cmdIllegal (hi code) : Statement (.cmdIllegal hi code) := fun _ => commandWord_top hi code

theorem response : Statement .response := fun _ => by decide

theorem readObject : Statement .readObject := fun _ => by decide

theorem writeObject : Statement .writeObject := fun _ => by decide

theorem tokenO : Statement .tokenO := fun _ => by decide

theorem tokenF : Statement .tokenF := fun _ => by decide

end Sys2Proof.Laws.TableRow
end

