-- ==== Sys2Proof/Tests/Slice0.lean ====
section
/-!
SUPPORT. Tests. Expected values come from the spec's encodings (30_encoding) and vectors (95_test_vectors), named in each
comment. The second half holds the witnesses: for each statement with hypotheses, states and operands that meet them.
-/

namespace Sys2Proof.Tests

open Sys2Proof Sys2Proof.Machine

/-! ## WellFormed: an ill-formed term for each check -/

theorem test_wf_refuses_hostWr_of_cmd : WellFormed (.hostWr 0#5 0x000#10 0x0002#16) = false := by decide

theorem test_wf_refuses_illegal_code_crcRun : WellFormed (.cmdIllegal 0x00#8 0x01#8) = false := by decide

theorem test_wf_refuses_illegal_code_send : WellFormed (.cmdIllegal 0xAB#8 0x02#8) = false := by decide

theorem test_wf_refuses_illegal_code_recv : WellFormed (.cmdIllegal 0xFF#8 0x03#8) = false := by decide

/-! ## Decoding: each word written out bit by bit (30_encoding R91: W, 5 reserved, 10 REG, 16 DATA) -/

/-- RD BUF[509]: W = 0, REG = 0x2FD (95_test_vectors 2.6). -/
theorem test_decode_hostRd :
    decode (.host32 0b00000010111111010000000000000000#32) = .ok (.hostRd 0#5 0x2FD#10 0x0000#16) := by decide

/-- RD with reserved bit 26 set (95_test_vectors 2.6, 0x04040000). -/
theorem test_decode_hostRd_reserved :
    decode (.host32 0b00000100000001000000000000000000#32) = .ok (.hostRd 1#5 0x004#10 0x0000#16) := by decide

/-- WR BUF[509], 0xFF: W = 1, REG = 0x2FD, DATA = 0x00FF (30_encoding R110). -/
theorem test_decode_hostWr :
    decode (.host32 0b10000010111111010000000011111111#32) = .ok (.hostWr 0#5 0x2FD#10 0x00FF#16) := by decide

/-- A write of 0x02 to register 0 with the top reserved bit set names no register, so it is no SEND (30_encoding R92). -/
theorem test_decode_hostWr_reserved :
    decode (.host32 0b11000000000000000000000000000010#32) = .ok (.hostWr 16#5 0x000#10 0x0002#16) := by decide

/-- 0x8000AB01: CRC_RUN, DATA[15:8] ignored (95_test_vectors 2.7). -/
theorem test_decode_crcRun :
    decode (.host32 0b10000000000000001010101100000001#32) = .ok (.crcRun 0xAB#8) := by decide

/-- 0x80000002: SEND (30_encoding R110). -/
theorem test_decode_send :
    decode (.host32 0b10000000000000000000000000000010#32) = .ok (.send 0x00#8) := by decide

/-- 0x80000003: RECV (95_test_vectors 2.7). -/
theorem test_decode_recv :
    decode (.host32 0b10000000000000000000000000000011#32) = .ok (.recv 0x00#8) := by decide

/-- 0x80000000 and 0x800000FF: illegal codes (95_test_vectors 2.7). -/
theorem test_decode_cmdIllegal :
    decode (.host32 0b10000000000000000000000000000000#32) = .ok (.cmdIllegal 0x00#8 0x00#8) ∧
    decode (.host32 0b10000000000000000000000011111111#32) = .ok (.cmdIllegal 0x00#8 0xFF#8) := by decide

/-- Opcode 0x00 (30_encoding R98). -/
theorem test_decode_response : decode (.wire8 0b00000000#8) = .ok .response := by decide

/-- Opcode 0x10 (30_encoding R98). -/
theorem test_decode_readObject : decode (.wire8 0b00010000#8) = .ok .readObject := by decide

/-- Opcode 0x11 (30_encoding R98). -/
theorem test_decode_writeObject : decode (.wire8 0b00010001#8) = .ok .writeObject := by decide

/-- 'O' = 0x4F (30_encoding R102). -/
theorem test_decode_tokenO : decode (.wire8 0b01001111#8) = .ok .tokenO := by decide

/-- 'F' = 0x46 (30_encoding R102). -/
theorem test_decode_tokenF : decode (.wire8 0b01000110#8) = .ok .tokenF := by decide

/-- 'o' = 0x6F is no token and no opcode (95_test_vectors S-9). -/
theorem test_decode_rejects_other_byte : decode (.wire8 0b01101111#8) = .error (.noWireRow 0x6F#8) := by decide

/-- The table's numbering: a one-byte row, a HOST32 row. -/
theorem test_decodeTableWord :
    decodeTableWord 8 0x46 = some .tokenF ∧ decodeTableWord 32 0x80000003 = some (.recv 0x00#8) ∧
      decodeTableWord 8 0x12 = none := by decide

/-! ## The CRC engine (95_test_vectors 2.1, 2.2, V1.1; 40_crc R131) -/

theorem test_crcBit_top : crcBit 0x8000#16 = 0x1021#16 := by decide

theorem test_crcStep_enters_at_top : crcStep 0x0000#16 0x80#8 = 0x9188#16 := by decide +kernel

theorem test_compute_order :
    compute 0x0000#16 [0x12#8, 0x34#8] = 0x13C6#16 ∧ compute 0x0000#16 [0x34#8, 0x12#8] = 0xFB22#16 := by
  decide +kernel

theorem test_compute_seed :
    compute 0x1D0F#16 [0x31#8, 0x32#8, 0x33#8, 0x34#8, 0x35#8, 0x36#8, 0x37#8, 0x38#8, 0x39#8] = 0xE5CC#16 := by
  decide +kernel

theorem test_fcs_known : fcs 0x10#8 0x01#8 [0x40#8, 0x60#8, 0x00#8, 0x00#8] = 0xF4AA#16 := by decide +kernel

theorem test_fcs_zero_frame : fcs 0x00#8 0x00#8 [0x00#8, 0x00#8] = 0x0000#16 := by decide +kernel

theorem test_fcsWords_known : fcsWords 0x10#8 0x01#8 [0x40#8, 0x60#8, 0x00#8, 0x00#8] = 0xF4AA#16 := by
  decide +kernel

theorem test_frameBytes :
    frameBytes 0x11#8 [0x40#8, 0x60#8, 0x00#8, 0x00#8, 0x0F#8, 0x00#8, 0x00#8, 0x00#8] =
      [0x11#8, 0x03#8, 0x40#8, 0x60#8, 0x00#8, 0x00#8, 0x0F#8, 0x00#8, 0x00#8, 0x00#8, 0xF2#8, 0xAA#8] := by
  decide +kernel

theorem test_le32 : le32 0x10#8 0x00#8 0x07#8 0x06#8 = 0x06070010#32 := by decide

/-! ## Small states -/

/-- The block after reset, in state `st` of command `cur`, with OPC 0x10, NBYTES, the first bytes of BUF, the environment's
answers and the held bytes of the receive stream given. -/
def inState (st : St) (cur : Command) (n : Half) (bs : List Byte) (txs : List TxAnswer) (rxs : List RxAnswer)
    (rx : List Byte) : State :=
  { State.reset with
    block :=
      { Block.reset 0 with
        opc := 0x10#8, nbytes := n, buf := Memory.writeBytes 0 bs [], st := st, cur := cur,
        lenf := lenField n.toNat, lenfReg := lenField n.toNat }
    link := { txStream := [], rxStream := rx, txAnswers := txs, rxAnswers := rxs, unanswered := false } }

/-- The payload of 95_test_vectors 2.4. -/
def sendBytes : List Byte := [0x40#8, 0x60#8, 0x00#8, 0x00#8]

/-- SEND's block of 95_test_vectors 2.4 in a given state. -/
def sendIn (st : St) (txs : List TxAnswer) (rxs : List RxAnswer) (rx : List Byte) : State :=
  inState st .send 0x0004#16 sendBytes txs rxs rx

/-- RECV's block of 95_test_vectors 2.5 in a given state. -/
def recvIn (st : St) (n : Half) (txs : List TxAnswer) (rxs : List RxAnswer) (rx : List Byte) : State :=
  inState st .recv n [0xEE#8, 0xEE#8, 0xEE#8, 0xEE#8, 0xEE#8, 0xEE#8, 0xEE#8, 0xEE#8] txs rxs rx

/-- A state with a program and a schedule. -/
def scheduled (program : List CtlOp) (sched : List Event) (s : State) : State :=
  { s with ctl.program := program, sched := sched }

/-- The state a step or an instruction answers, or the state it was asked of. -/
def nextOf (s : State) : Host.Outcome State Fault Refusal → State
  | .next t => t
  | .fault _ => s
  | .refused _ => s

/-! ## HOST_RD and HOST_WR (95_test_vectors 2.6, 2.8) -/

/-- RD OPC returns 0x0010. -/
theorem test_hostRd_opc :
    (nextOf State.reset (exec (.hostRd 0#5 0x004#10 0x0000#16) (sendIn .idle [] [] []))).ctl.data = 0x0010#16 := by
  decide

/-- STATUS reads FAULT, OK, DONE, BUSY in bits 3 to 0: 0x0E at the end of P7. -/
theorem test_hostRd_status :
    (nextOf State.reset (exec (.hostRd 0#5 0x001#10 0x0000#16)
      { sendIn .idle [] [] [] with block.fault := true, block.ok := true, block.done := true })).ctl.data =
        0x000E#16 := by
  decide

/-- WR OPC, 0x1234 keeps DATA[7:0]. -/
theorem test_hostWr_opc :
    (nextOf State.reset (exec (.hostWr 0#5 0x004#10 0x1234#16) State.reset)).block.opc = 0x34#8 := by decide

/-- WR NBYTES, 4 while busy is not performed and sets FAULT. -/
theorem test_hostWr_busy :
    (nextOf State.reset (exec (.hostWr 0#5 0x006#10 0x0004#16) (recvIn .r1 0x0002#16 [] [] []))).block.fault = true ∧
    (nextOf State.reset (exec (.hostWr 0#5 0x006#10 0x0004#16) (recvIn .r1 0x0002#16 [] [] []))).block.nbytes =
      0x0002#16 := by
  decide

/-! ## CRC_RUN (95_test_vectors 2.3) -/

/-- An odd N is accepted: CRC = 0x6131. -/
theorem test_crcRun_odd :
    (blockStep (nextOf State.reset (exec (.crcRun 0xAB#8)
      (inState .idle .recv 0x0003#16 [0x01#8, 0x02#8, 0x03#8] [] [] [])))).block.crc = 0x6131#16 := by
  decide +kernel

/-- N = 511: BAD_LENGTH, STATUS = 0x02. -/
theorem test_crcRun_bad_length :
    (blockStep (nextOf State.reset (exec (.crcRun 0x00#8) (inState .idle .recv 0x01FF#16 [] [] [] [])))).block.result =
      .badLength ∧
    (blockStep (nextOf State.reset (exec (.crcRun 0x00#8)
      (inState .idle .recv 0x01FF#16 [] [] [] [])))).block.statusByte = 0x02#8 := by
  decide

/-! ## SEND (95_test_vectors 2.4) -/

/-- S5 transmits AA F4, low byte first. -/
theorem test_send_checksum_bytes :
    (blockStep (sendIn .s5 [.accepted] [] [])).link.txStream = [0xAA#8, 0xF4#8] ∧
    (blockStep (sendIn .s5 [.accepted] [] [])).block.crc = 0xF4AA#16 := by
  decide +kernel

/-- S-5: the opcode's group fails after no byte: TRANSPORT_WRITE. -/
theorem test_send_write_fails :
    (blockStep (sendIn .s1 [.writeFail 0] [] [])).block.result = .transportWrite ∧
    (blockStep (sendIn .s1 [.writeFail 0] [] [])).link.txStream = [] := by
  decide

/-! ## RECV (95_test_vectors 2.5) -/

/-- R-7: a length byte 01 for N = 8: LENGTH_MISMATCH, ERRBYTE = LENF = 01. -/
theorem test_recv_length_mismatch :
    (blockStep (recvIn .r3 0x0008#16 [] [.bytes] [0x01#8])).block.result = .lengthMismatch ∧
    (blockStep (recvIn .r3 0x0008#16 [] [.bytes] [0x01#8])).block.errbyte = 0x01#8 ∧
    (blockStep (recvIn .r3 0x0008#16 [] [.bytes] [0x01#8])).block.lenfReg = 0x01#8 := by
  decide

/-- R-15: the payload AB CD in BUF, checksum bytes 89 64 read low byte first, CRC = RXCRC = 0x6489. -/
theorem test_recv_checksum :
    (blockStep (blockStep (recvIn .r4 0x0002#16 [] [.bytes, .bytes] [0xAB#8, 0xCD#8, 0x89#8, 0x64#8]))).block.rxcrc =
      0x6489#16 ∧
    (blockStep (blockStep (recvIn .r4 0x0002#16 [] [.bytes, .bytes] [0xAB#8, 0xCD#8, 0x89#8, 0x64#8]))).block.crc =
      0x6489#16 := by
  decide +kernel

/-! ## CMD_ILLEGAL (95_test_vectors 2.7, P7) -/

/-- WR CMD, 0x07: ILLEGAL_COMMAND, ERRBYTE = 0x07, STATUS = 0x02. -/
theorem test_cmdIllegal :
    (nextOf State.reset (exec (.cmdIllegal 0x00#8 0x07#8) State.reset)).block.result = .illegalCommand ∧
    (nextOf State.reset (exec (.cmdIllegal 0x00#8 0x07#8) State.reset)).block.errbyte = 0x07#8 ∧
    (nextOf State.reset (exec (.cmdIllegal 0x00#8 0x07#8) State.reset)).block.statusByte = 0x02#8 := by
  decide

/-- While busy it sets FAULT and starts nothing. -/
theorem test_cmdIllegal_busy :
    (nextOf State.reset (exec (.cmdIllegal 0x00#8 0x07#8) (sendIn .s2 [] [] []))).block.statusByte = 0x09#8 := by
  decide

/-! ## The one-byte rows (95_test_vectors 2.4, 2.5) -/

/-- RESPONSE while RECV waits for the opcode: the block goes on to R2. -/
theorem test_response_at_r1 :
    (nextOf State.reset (exec .response (recvIn .r1 0x0008#16 [] [] []))).block.st = .r2 := by decide

/-- R-17: a stale byte is read first: 0x4F before the response opcode is UNEXPECTED_OPCODE. -/
theorem test_response_behind_stale_byte :
    (nextOf State.reset (exec .response (recvIn .r1 0x0008#16 [] [] [0x4F#8]))).block.result = .unexpectedOpcode ∧
    (nextOf State.reset (exec .response (recvIn .r1 0x0008#16 [] [] [0x4F#8]))).link.rxStream = [0x00#8] := by
  decide

/-- TOKEN_O at the end-ack: OK, STATUS = 0x06 (S-1). -/
theorem test_tokenO_at_end_ack :
    (nextOf State.reset (exec .tokenO (sendIn .s6 [] [] []))).block.statusByte = 0x06#8 := by decide

/-- TOKEN_O as RECV's length byte is data: LENGTH_MISMATCH carrying 0x4F. -/
theorem test_tokenO_as_length_byte :
    (nextOf State.reset (exec .tokenO (recvIn .r3 0x0008#16 [] [] []))).block.result = .lengthMismatch ∧
    (nextOf State.reset (exec .tokenO (recvIn .r3 0x0008#16 [] [] []))).block.errbyte = 0x4F#8 := by
  decide

/-- S-7: TOKEN_F at the ready-ack: DEVICE_NOT_READY, ERRBYTE = 46. -/
theorem test_tokenF_at_ready_ack :
    (nextOf State.reset (exec .tokenF (sendIn .s2 [] [] []))).block.result = .deviceNotReady ∧
    (nextOf State.reset (exec .tokenF (sendIn .s2 [] [] []))).block.errbyte = 0x46#8 := by
  decide

/-- S-14: TOKEN_F at the end-ack: DEVICE_REJECTED_FRAME. -/
theorem test_tokenF_at_end_ack :
    (nextOf State.reset (exec .tokenF (sendIn .s6 [] [] []))).block.result = .deviceRejectedFrame := by decide

/-! ## The client (95_test_vectors 2.9, P1, P2, V1.7) -/

/-- A client asked for read_object(0x1000, 1, 2), or write_object of 0x0000000F there. -/
def clientState : State :=
  { State.reset with
    ctl.client.index := 0x1000#16, ctl.client.subindex := 0x01#8, ctl.client.nodeId := 0x02#8,
    ctl.client.value := 0x0000000F#32 }

/-- The first accesses of the read request: opcode, N = 4, the payload 00 10 01 02, SEND. -/
theorem test_readObject_program :
    (nextOf State.reset (exec .readObject clientState)).ctl.program.take 8 =
      [.access 0x80040010#32, .access 0x80060004#32, .access 0x81000000#32, .access 0x81010010#32,
       .access 0x81020001#32, .access 0x81030002#32, .access 0x80000002#32, .wait] := by
  decide

/-- The end of a failed read: error code 0x06070010. -/
theorem test_readObject_device_error :
    (doEndRead { clientState with
      ctl.client.bytes := [0x10#8, 0x00#8, 0x07#8, 0x06#8, 0x00#8, 0x00#8, 0x00#8, 0x00#8] }).ctl.client.outcome =
        some (.deviceError 0x06070010#32) := by
  decide

/-- The write request: opcode 0x11, N = 8, the value's bytes low byte first after the address. -/
theorem test_writeObject_program :
    ((nextOf State.reset (exec .writeObject clientState)).ctl.program.drop 6).take 5 =
      [.access 0x8104000F#32, .access 0x81050000#32, .access 0x81060000#32, .access 0x81070000#32,
       .access 0x80000002#32] := by
  decide

/-- A frame exchange that failed ends the request with its RESULT and drops the rest of its program (P5). -/
theorem test_writeObject_exchange_fails :
    (doCheckResult { clientState with
      block.result := .deviceNotReady
      ctl.program := [.collect 0, .endWrite, .wait] }).ctl.client.outcome = some (.failed 0x01#8) ∧
    (doCheckResult { clientState with
      block.result := .deviceNotReady
      ctl.program := [.collect 0, .endWrite, .wait] }).ctl.program = [.wait] := by
  decide

/-! ## Witnesses: the hypotheses of each statement can be met, each clause at a boundary -/

theorem test_witness_encode : WellFormed (.hostWr 31#5 0x3FF#10 0xFFFF#16) = true ∧ WellFormed (.cmdIllegal 0xFF#8 0x04#8) = true ∧
    WellFormed (.cmdIllegal 0x00#8 0x00#8) = true := by decide

theorem test_witness_stepRuns :
    (scheduled [.access 0x80000003#32] [.controller] State.reset).sched = .controller :: [] ∧
    (scheduled [.access 0x80000003#32] [.controller] State.reset).ctl.program = .access 0x80000003#32 :: [] ∧
    (scheduled [.request .read] [.controller] State.reset).ctl.program = .request .read :: [] ∧
    (scheduled [.request .write] [.controller] State.reset).ctl.program = .request .write :: [] ∧
    (scheduled [] [.wire 0x46#8] State.reset).sched = .wire 0x46#8 :: [] ∧ decodeReceived 0x46#8 = .ok .tokenF ∧
    decodeReceived 0x10#8 = .error (.noWireRow 0x10#8) := by decide

theorem test_witness_placed :
    decodeTableWord 32 0xFFFFFFFF = some (.hostWr 31#5 0x3FF#10 0xFFFF#16) ∧ decodeTableWord 8 0x00 = some .response ∧
      decodeTableWord 8 0x11 = some .writeObject := by decide

theorem test_witness_scheduled :
    (scheduled [] [.block] State.reset).sched = .block :: [] ∧ (scheduled [] [.block] State.reset).block.st = .idle ∧
    (scheduled [] [.flush] State.reset).sched = .flush :: [] ∧ (scheduled [] [.reset] State.reset).sched = .reset :: [] ∧
    (scheduled [] [.controller] State.reset).ctl.program = [] := by decide

theorem test_witness_otherVariants : Variant.reflected8408 ≠ .canonical ∧ Variant.byteCountLength ≠ .canonical := by decide

/-- A block that waits for the opcode of a two-byte RECV. -/
def waiting : State := recvIn .r1 0x0002#16 [] [.bytes] [0x00#8]

theorem waiting_inv : waiting.Inv where
  block :=
    { bufWf := by decide
      doneIdle := by decide
      okFlag := by decide
      curFits := by decide
      cleared := by decide
      lengthChecked := by decide
      lenfHeld := by decide
      sentCrc := by decide
      receivedCrc := by decide
      errbyteHeld := fun h => absurd h (by decide)
      recvAgreed := by decide }
  waits := by decide

theorem test_witness_stepKeepsInvariant :
    (scheduled [] [.block] waiting).Inv ∧ step (scheduled [] [.block] waiting) = .next (blockStep waiting) ∧
      (blockStep waiting).block.st = .r2 :=
  ⟨⟨waiting_inv.block, waiting_inv.waits⟩, rfl, by decide⟩

/-- A faulted block. -/
def faulted : State := { waiting with block.fault := true }

theorem test_witness_faultStays :
    faulted.block.fault = true ∧ (∃ t, step faulted = .next t) ∧ faulted.sched.head? ≠ some .reset ∧
    (∃ t, step (scheduled [] [.reset] faulted) = .next t) ∧
    (scheduled [] [.reset] faulted).sched.head? = some .reset :=
  ⟨rfl, ⟨_, rfl⟩, by decide, ⟨_, rfl⟩, rfl⟩

theorem test_witness_faultArises :
    (scheduled [.access 0x80060004#32] [.controller] waiting).block.fault = false ∧
    (nextOf waiting (step (scheduled [.access 0x80060004#32] [.controller] waiting))).block.fault = true := by decide

theorem test_witness_blockStepFrame :
    waiting.block.st ≠ .r5 ∧ waiting.block.st ≠ .c1 ∧ waiting.block.st ≠ .s5 ∧ waiting.block.st ≠ .s3 ∧
    waiting.block.st ≠ .r3 ∧ waiting.block.st ≠ .r4 ∧
    (recvIn .r4 0x0002#16 [] [] []).block.nbytes.toNat ≤ 2 := by decide

/-- A block in S2 whose ready-ack is never answered (93 U7), after the step that asked for it. -/
def stuck : State := blockStep (sendIn .s2 [] [.never] [])

theorem test_never_answered :
    stuck.link.unanswered = true ∧ stuck.block.st = .s2 ∧ (blockStep stuck).block.st = .s2 ∧ stuck.busy = true := by
  decide

/-- A reset abandons the transaction with the command (70_reset R266). -/
theorem test_reset_ends_never_answered :
    stuck.applyReset.link.unanswered = false ∧ stuck.applyReset.busy = false := by decide

theorem test_witness_commandEnds :
    (inState .c1 .crcRun 0x0002#16 [] [] [] []).block.st = .c1 ∧
    (blockStep^[6] (sendIn .s6 [] [.bytes] [0x4F#8])).link.unanswered = false ∧
    (sendIn .s3 [.never] [] []).transacts = true ∧ (blockStep (sendIn .s3 [.never] [] [])).link.unanswered = true ∧
    stuck.link.unanswered = true ∧ stuck.transacts = true := by decide

/-- An idle block after a command that ended OK. -/
def ended : State := blockStep (sendIn .s6 [] [.bytes] [0x4F#8])

theorem test_witness_idleBlockChanges :
    State.reset.busy = false ∧ (∃ t, step (scheduled [.access 0x80000003#32] [] State.reset) = .next t) ∧
    (scheduled [.wait] [.wire 0x00#8] State.reset).sched.head? = some (.wire 0x00#8) ∧
    (scheduled [.access 0x81000040#32] [.controller] ended).resultsReady ∧
    (∃ t, step (scheduled [.access 0x81000040#32] [.controller] ended) = .next t) ∧
    fieldReg 0x81000040#32 ≠ 0x000#10 ∧ (fieldReg 0x81000040#32).toNat ≠ 0x100 + 1 :=
  ⟨by decide, ⟨_, rfl⟩, by decide, ⟨by decide, by decide⟩, ⟨_, rfl⟩, by decide, by decide⟩

theorem test_witness_computeIsLinear : [0x01#8, 0x02#8].length = [0xFF#8, 0x00#8].length := by decide

theorem test_witness_fcsWordForm : [0x40#8, 0x60#8].length % 2 = 0 := by decide

theorem test_witness_lengthField :
    (2 % 2 = 0 ∧ 2 ≤ 2 ∧ 2 ≤ 510) ∧ (510 % 2 = 0 ∧ 2 ≤ 510 ∧ 510 ≤ 510) ∧ lenField 2 = 0x00#8 ∧ lenField 510 = 0xFE#8 := by
  decide

/-- Each clause of the harmless accesses at the ends of its range: reserved bits, 0x00B, 0x0FF, 0x2FE, 0x3FF. -/
theorem test_witness_unmapped :
    (1#5 ≠ 0#5 ∧ 16#5 ≠ 0#5) ∧ (0x00B ≤ (0x00B#10).toNat ∧ (0x00B#10).toNat ≤ 0x0FF) ∧
    (0x00B ≤ (0x0FF#10).toNat ∧ (0x0FF#10).toNat ≤ 0x0FF) ∧ 0x2FE ≤ (0x2FE#10).toNat ∧ 0x2FE ≤ (0x3FF#10).toNat ∧
    0x001#10 ∈ [0x001#10, 0x002#10, 0x003#10, 0x005#10, 0x008#10, 0x009#10, 0x00A#10] := by decide

/-- The idle statements (reads, writes, command starts) at `i = 0` and `i = 509`; the illegal codes at the ends of their
ranges. -/
theorem test_witness_idle :
    State.reset.busy = false ∧ 0 < 510 ∧ 509 < 510 ∧ BitVec.ofNat 10 (0x100 + 509) = 0x2FD#10 ∧
    0x04 ≤ (0x04#8).toNat ∧ 0x04 ≤ (0xFF#8).toNat := by decide

theorem test_witness_legalCommands :
    (Instr.send 0xFF#8, 0x02#8, Command.send, St.s1) ∈
      [(Instr.crcRun 0xFF#8, 0x01#8, Command.crcRun, St.c1), (Instr.send 0xFF#8, 0x02#8, Command.send, St.s1),
       (Instr.recv 0xFF#8, 0x03#8, Command.recv, St.r1)] := by decide

/-- The busy statements (reads and writes) at the ends of the BUF window. -/
theorem test_witness_busy :
    waiting.busy = true ∧ (0x100 ≤ (0x100#10).toNat ∧ (0x100#10).toNat < 0x2FE) ∧
    (0x100 ≤ (0x2FD#10).toNat ∧ (0x2FD#10).toNat < 0x2FE) ∧ 0x000#10 ∈ [0x000#10, 0x004#10, 0x006#10, 0x007#10] := by decide

theorem test_witness_statusBits : 4 ≤ 4 ∧ waiting.block.statusByte.getLsbD 0 = true := by decide

theorem test_witness_transactions :
    (sendIn .s1 [.accepted] [] []).link.unanswered = false ∧
    (sendIn .s1 [.accepted] [] []).nextTxAnswer = .accepted ∧
    (sendIn .s1 [.writeFail 3] [] []).nextTxAnswer = .writeFail 3 ∧ (sendIn .s1 [.never] [] []).nextTxAnswer = .never ∧
    waiting.link.unanswered = false ∧ waiting.nextRxAnswer = .bytes ∧
    (recvIn .r1 0x0002#16 [] [.timeout 0] []).nextRxAnswer = .timeout 0 ∧
    (recvIn .r1 0x0002#16 [] [.never] []).nextRxAnswer = .never ∧ stuck.link.unanswered = true := by decide

theorem test_witness_reset : (scheduled [] [.reset] waiting).sched = .reset :: [] := by decide

theorem test_witness_crcRunStep :
    (inState .c1 .crcRun 0x01FF#16 [] [] [] []).block.nbytes.toNat > 510 ∧
    (inState .c1 .crcRun 0x01FE#16 [] [] [] []).block.nbytes.toNat ≤ 510 ∧
    (inState .c1 .crcRun 0x01FE#16 [] [] [] []).block.st = .c1 ∧
    (inState .idle .crcRun 0x01FE#16 [] [] [] []).busy = false := by decide

/-- S1: the three ways a length is refused, both ends of the accepted range, an accepted and a failed group. -/
theorem test_witness_sendStep1 :
    (inState .s1 .send 0x0003#16 [] [] [] []).block.nbytes.toNat % 2 = 1 ∧
    (inState .s1 .send 0x0000#16 [] [] [] []).block.nbytes.toNat < 2 ∧
    (inState .s1 .send 0x0200#16 [] [] [] []).block.nbytes.toNat > 510 ∧
    ((sendIn .s1 [.accepted] [] []).block.nbytes.toNat % 2 = 0 ∧ 2 ≤ (sendIn .s1 [.accepted] [] []).block.nbytes.toNat ∧
      (sendIn .s1 [.accepted] [] []).block.nbytes.toNat ≤ 510) ∧
    (∃ t, txGroup [0x10#8] (sendIn .s1 [.accepted] [] []) = (.accepted, t)) ∧
    (∃ t, txGroup [0x10#8] (sendIn .s1 [.writeFail 1] [] []) = (.writeFail, t)) :=
  ⟨by decide, by decide, by decide, by decide, ⟨_, rfl⟩, ⟨_, rfl⟩⟩

/-- S2 and S6, R1 and R3: a timeout, and one byte delivered. -/
theorem test_witness_oneByteGroups :
    (sendIn .s2 [] [] []).block.st = .s2 ∧ (sendIn .s6 [] [] []).block.st = .s6 ∧
    (recvIn .r1 0x0002#16 [] [] []).block.st = .r1 ∧ (recvIn .r3 0x0002#16 [] [] []).block.st = .r3 ∧
    (∃ t, rxGroup 1 (sendIn .s2 [] [.timeout 0] [0x4F#8]) = (.timeout, t)) ∧
    (∃ t, rxGroup 1 (sendIn .s2 [] [.bytes] [0x46#8]) = (.bytes [0x46#8], t)) ∧
    (∃ t, rxGroup 1 (sendIn .s6 [] [.bytes] [0x4F#8]) = (.bytes [0x4F#8], t)) ∧
    (∃ t, rxGroup 1 (recvIn .r1 0x0002#16 [] [.bytes] [0x00#8]) = (.bytes [0x00#8], t)) ∧
    (∃ t, rxGroup 1 (recvIn .r3 0x0002#16 [] [.bytes] [0x00#8]) = (.bytes [0x00#8], t)) ∧
    ((recvIn .r3 0x0002#16 [] [] []).block.nbytes.toNat % 2 = 0 ∧
      2 ≤ (recvIn .r3 0x0002#16 [] [] []).block.nbytes.toNat ∧
      (recvIn .r3 0x0002#16 [] [] []).block.nbytes.toNat ≤ 510) ∧
    BitVec.ofNat 8 ((recvIn .r3 0x0002#16 [] [] []).block.nbytes.toNat / 2 - 1) = 0x00#8 :=
  ⟨rfl, rfl, rfl, rfl, ⟨_, rfl⟩, ⟨_, rfl⟩, ⟨_, rfl⟩, ⟨_, rfl⟩, ⟨_, rfl⟩, by decide, by decide⟩

theorem test_witness_sendSteps3To5 :
    (sendIn .s3 [] [] []).block.st = .s3 ∧ (sendIn .s4 [] [] []).block.st = .s4 ∧ (sendIn .s5 [] [] []).block.st = .s5 ∧
    ((sendIn .s3 [] [] []).block.nbytes.toNat % 2 = 0 ∧ 2 ≤ (sendIn .s3 [] [] []).block.nbytes.toNat ∧
      (sendIn .s3 [] [] []).block.nbytes.toNat ≤ 510) ∧
    (∃ t, txGroup [0x01#8] (sendIn .s3 [.accepted] [] []) = (.accepted, t)) ∧
    (∃ t, txGroup [0x01#8] (sendIn .s3 [.writeFail 0] [] []) = (.writeFail, t)) ∧
    (∃ t, txGroup sendBytes (sendIn .s4 [.accepted] [] []) = (.accepted, t)) ∧
    (∃ t, txGroup sendBytes (sendIn .s4 [.writeFail 2] [] []) = (.writeFail, t)) ∧
    (∃ t, txGroup [0xAA#8, 0xF4#8] (sendIn .s5 [.accepted] [] []) = (.accepted, t)) ∧
    (∃ t, txGroup [0xAA#8, 0xF4#8] (sendIn .s5 [.writeFail 1] [] []) = (.writeFail, t)) :=
  ⟨rfl, rfl, rfl, by decide, ⟨_, rfl⟩, ⟨_, rfl⟩, ⟨_, rfl⟩, ⟨_, rfl⟩, ⟨_, rfl⟩, ⟨_, rfl⟩⟩

/-- R2 and R6: an accepted and a failed token; R6 with unequal and with equal checksums. -/
theorem test_witness_recvTokens :
    (recvIn .r2 0x0002#16 [] [] []).block.st = .r2 ∧ (recvIn .r6 0x0002#16 [] [] []).block.st = .r6 ∧
    (∃ t, txGroup [0x4F#8] (recvIn .r2 0x0002#16 [.accepted] [] []) = (.accepted, t)) ∧
    (∃ t, txGroup [0x4F#8] (recvIn .r2 0x0002#16 [.writeFail 0] [] []) = (.writeFail, t)) ∧
    (∃ t, txGroup [0x46#8] (recvIn .r6 0x0002#16 [.accepted] [] []) = (.accepted, t)) ∧
    (∃ t, txGroup [0x46#8] (recvIn .r6 0x0002#16 [.writeFail 0] [] []) = (.writeFail, t)) ∧
    ({ recvIn .r6 0x0002#16 [] [] [] with block.rxcrc := 0x6489#16 } : State).block.rxcrc ≠
      ({ recvIn .r6 0x0002#16 [] [] [] with block.rxcrc := 0x6489#16 } : State).block.crc ∧
    (recvIn .r6 0x0002#16 [] [] []).block.rxcrc = (recvIn .r6 0x0002#16 [] [] []).block.crc :=
  ⟨rfl, rfl, ⟨_, rfl⟩, ⟨_, rfl⟩, ⟨_, rfl⟩, ⟨_, rfl⟩, by decide, rfl⟩

theorem test_witness_recvStep4 :
    (recvIn .r4 0x01FE#16 [] [] []).block.st = .r4 ∧ (recvIn .r4 0x01FE#16 [] [] []).block.nbytes.toNat ≤ 510 ∧
    (∃ t, rxGroup 2 (recvIn .r4 0x0002#16 [] [.bytes] [0xAB#8, 0xCD#8]) = (.bytes [0xAB#8, 0xCD#8], t)) ∧
    (∃ t, rxGroup 2 (recvIn .r4 0x0002#16 [] [.timeout 1] [0xAB#8]) = (.timeout, t)) :=
  ⟨rfl, by decide, ⟨_, rfl⟩, ⟨_, rfl⟩⟩

theorem test_witness_recvStep5 :
    (recvIn .r5 0x0002#16 [] [] []).block.st = .r5 ∧
    (∃ t, rxGroup 2 (recvIn .r5 0x0002#16 [] [.bytes] [0x89#8, 0x64#8]) = (.bytes [0x89#8, 0x64#8], t)) ∧
    (∃ t, rxGroup 2 (recvIn .r5 0x0002#16 [] [.timeout 0] []) = (.timeout, t)) :=
  ⟨rfl, ⟨_, rfl⟩, ⟨_, rfl⟩⟩

/-- A byte of the peer at a waiting block: each of S2, S6, R1 and R3, with nothing held and with a stale byte held, the
expected byte and another, a row's byte and another, the ends of the accepted lengths. -/
theorem test_witness_peerByte :
    (Instr.tokenF, 0x46#8) ∈ [(Instr.response, 0x00#8), (Instr.tokenO, 0x4F#8), (Instr.tokenF, 0x46#8)] ∧
    (sendIn .s2 [] [] []).link.unanswered = false ∧ (sendIn .s2 [] [] []).block.st = .s2 ∧
    (sendIn .s2 [] [] []).link.rxStream ++ [0x46#8] = 0x46#8 :: [] ∧
    (sendIn .s2 [] [] []).link.rxStream ++ [0x6F#8] = 0x6F#8 :: [] ∧
    (sendIn .s6 [] [] [0x4F#8, 0x33#8]).link.rxStream ++ [0x00#8] = 0x4F#8 :: [0x33#8, 0x00#8] ∧
    (sendIn .s6 [] [] [0x4F#8, 0x33#8]).block.st = .s6 ∧
    (recvIn .r1 0x01FE#16 [] [] []).block.st = .r1 ∧ (recvIn .r1 0x01FE#16 [] [] []).block.nbytes.toNat ≤ 510 ∧
    (recvIn .r1 0x01FE#16 [] [] []).block.nbytes.toNat % 2 = 0 ∧
    (recvIn .r1 0x01FE#16 [] [] []).link.rxStream ++ [0x00#8] = 0x00#8 :: [] ∧
    (recvIn .r3 0x0002#16 [] [] []).block.st = .r3 ∧ 2 ≤ (recvIn .r3 0x0002#16 [] [] []).block.nbytes.toNat ∧
    (recvIn .r3 0x0002#16 [] [] []).block.nbytes.toNat % 2 = 0 ∧
    (recvIn .r3 0x0002#16 [] [] []).link.rxStream ++ [0x00#8] = BitVec.ofNat 8 (2 / 2 - 1) :: [] ∧
    0x4F#8 ≠ BitVec.ofNat 8 (2 / 2 - 1) := by decide

theorem test_witness_unaskedByte :
    (recvIn .r2 0x0002#16 [] [] []).block.st ∈ [St.idle, .c1, .s1, .s3, .s4, .s5, .r2, .r4, .r5, .r6] ∧
    (recvIn .r1 0x0003#16 [] [] []).block.st = .r1 ∧ (recvIn .r1 0x0003#16 [] [] []).block.nbytes.toNat % 2 = 1 ∧
    (recvIn .r1 0x0000#16 [] [] []).block.nbytes.toNat < 2 ∧ (recvIn .r1 0x0200#16 [] [] []).block.nbytes.toNat > 510 ∧
    stuck.link.unanswered = true := by decide

/-- A failed exchange's check, a successful one's, and the reads of BUF. -/
theorem test_witness_controllerOperations :
    (scheduled [.wait] [.controller] waiting).sched = .controller :: [] ∧
    (scheduled [.wait] [.controller] waiting).ctl.program = .wait :: [] ∧
    ended.busy = false ∧ ended.block.result = .ok ∧
    (recvIn .idle 0x0002#16 [] [] []).busy = false ∧
    ({ ended with block.result := .timeout } : State).block.result ≠ .ok ∧
    [CtlOp.access 0x80000003#32, .collect 0, .endWrite, .wait] =
      [CtlOp.access 0x80000003#32, .collect 0] ++ .endWrite :: [.wait] ∧
    (∀ op ∈ [CtlOp.access 0x80000003#32, .collect 0], op ≠ .endRead ∧ op ≠ .endWrite) ∧
    (scheduled [.collect 509] [.controller] ended).ctl.program = .collect 509 :: [] ∧
    (scheduled [.endRead] [.controller] ended).ctl.program = .endRead :: [] := by decide

/-- WAIT beside a CRC_RUN, beside a SEND whose answers are given, and beside a transaction that is never answered. -/
theorem test_witness_waitEnds :
    (scheduled [.wait] [] (inState .c1 .crcRun 0x0002#16 [] [] [] [])).sched = [] ∧
    (scheduled [.wait] [] (inState .c1 .crcRun 0x0002#16 [] [] [] [])).block.st = .c1 ∧
    (scheduled [.wait] [] (inState .c1 .crcRun 0x0002#16 [] [] [] [])).ctl.program = .wait :: [] ∧
    (sendIn .s1 (List.replicate 4 .accepted) (List.replicate 4 .bytes) []).link.unanswered = false ∧
    4 ≤ (sendIn .s1 (List.replicate 4 .accepted) (List.replicate 4 .bytes) []).link.txAnswers.length ∧
    4 ≤ (sendIn .s1 (List.replicate 4 .accepted) (List.replicate 4 .bytes) []).link.rxAnswers.length ∧
    TxAnswer.never ∉ List.replicate 4 TxAnswer.accepted ∧ RxAnswer.never ∉ List.replicate 4 RxAnswer.bytes ∧
    stuck.link.unanswered = true ∧ stuck.transacts = true ∧ stuck.sched = [] := by decide

theorem test_witness_requests : clientState.busy = false ∧ clientState.sched = [] := by decide

theorem test_witness_clientReads :
    ({ clientState with ctl.client.bytes := le32Bytes 0x06070010#32 ++ le32Bytes 0x00000001#32 } : State).ctl.client.bytes =
      le32Bytes 0x06070010#32 ++ le32Bytes 0x00000001#32 ∧
    ({ clientState with ctl.client.bytes := le32Bytes 0x00000000#32 } : State).ctl.client.bytes = le32Bytes 0x00000000#32 :=
  ⟨rfl, rfl⟩

/-- S-1's start: every group accepted, both tokens 'O'. -/
def sendGood : State := sendIn .idle [.accepted, .accepted, .accepted, .accepted] [.bytes, .bytes] [0x4F#8, 0x4F#8]

theorem test_witness_sendWhole :
    sendGood.busy = false ∧ sendGood.link.unanswered = false ∧ sendGood.block.nbytes.toNat % 2 = 0 ∧ 2 ≤ sendGood.block.nbytes.toNat ∧
    sendGood.block.nbytes.toNat ≤ 510 ∧
    sendGood.link.txAnswers = .accepted :: .accepted :: .accepted :: .accepted :: [] ∧
    sendGood.link.rxAnswers = .bytes :: .bytes :: [] ∧ sendGood.link.rxStream = 0x4F#8 :: 0x4F#8 :: [] := by decide

/-- SEND's results: not ready, an unexpected ack, a rejected frame, a timeout, an odd length, OK; each leaves the block
idle. -/
theorem test_witness_sendPrefix :
    sendGood.busy = false ∧ sendGood.link.unanswered = false ∧ (∃ u, exec (.send 0x00#8) sendGood = .next u) ∧
    (blockStep (sendIn .s6 [] [.bytes] [0x4F#8])).busy = false ∧
    (blockStep (sendIn .s6 [] [.bytes] [0x46#8])).block.result = .deviceRejectedFrame ∧
    (blockStep (sendIn .s6 [] [.timeout 0] [])).block.result = .timeout ∧
    (blockStep (blockStep (sendIn .s1 [.accepted] [.bytes] [0x46#8]))).block.result = .deviceNotReady ∧
    (blockStep (blockStep (sendIn .s1 [.accepted] [.bytes] [0x6F#8]))).block.result = .unexpectedAck ∧
    (blockStep (inState .s1 .send 0x0003#16 [] [] [] [])).block.result = .badLength ∧
    (blockStep (sendIn .s6 [] [.bytes] [0x4F#8])).block.result = .ok :=
  ⟨by decide, by decide, ⟨_, rfl⟩, by decide, by decide, by decide, by decide, by decide, by decide, by decide⟩

/-- R-15's frame, and a state that receives it. -/
def recvGood : State :=
  recvIn .idle 0x0002#16 [.accepted, .accepted] [.bytes, .bytes, .bytes, .bytes]
    [0x00#8, 0x00#8, 0xAB#8, 0xCD#8, 0x89#8, 0x64#8]

theorem test_witness_recvGood :
    recvGood.busy = false ∧ recvGood.link.unanswered = false ∧ [0xAB#8, 0xCD#8].length % 2 = 0 ∧ 2 ≤ [0xAB#8, 0xCD#8].length ∧
    [0xAB#8, 0xCD#8].length ≤ 510 ∧ recvGood.block.nbytes.toNat = [0xAB#8, 0xCD#8].length ∧
    recvGood.link.txAnswers = .accepted :: .accepted :: [] ∧
    recvGood.link.rxAnswers = .bytes :: .bytes :: .bytes :: .bytes :: [] ∧
    recvGood.link.rxStream = frameBytes 0x00#8 [0xAB#8, 0xCD#8] ++ [] := by decide +kernel

theorem test_witness_recvEndsOk :
    recvGood.busy = false ∧ recvGood.link.unanswered = false ∧
    (blockStep^[6] (nextOf State.reset (exec (.recv 0x00#8) recvGood))).busy = false ∧
    (blockStep^[6] (nextOf State.reset (exec (.recv 0x00#8) recvGood))).block.result = .ok := by decide +kernel

/-- RECV's other results: a bad length, another opcode, another length byte, a timeout, another checksum. -/
theorem test_witness_recvTokensByResult :
    (∃ u, exec (.recv 0x00#8) recvGood = .next u) ∧
    (blockStep (recvIn .r1 0x0001#16 [] [] [])).block.result = .badLength ∧
    (blockStep (recvIn .r1 0x0002#16 [] [.bytes] [0x4F#8])).block.result = .unexpectedOpcode ∧
    (blockStep (recvIn .r3 0x0002#16 [] [.bytes] [0xFF#8])).block.result = .lengthMismatch ∧
    (blockStep (recvIn .r3 0x0002#16 [] [.timeout 0] [])).block.result = .timeout ∧
    (blockStep { recvIn .r6 0x0002#16 [.accepted] [] [] with block.rxcrc := 0x6489#16 }).block.result =
      .checksumMismatch ∧
    (blockStep { recvIn .r6 0x0002#16 [.accepted] [] [] with block.rxcrc := 0x6489#16 }).busy = false :=
  ⟨⟨_, rfl⟩, by decide, by decide, by decide, by decide, by decide, by decide⟩

/-- A flip in the opcode, in the length byte, in the first payload byte and in the last checksum byte. -/
theorem test_witness_singleBitFlip :
    (frameBytes 0x00#8 [0xAB#8, 0xCD#8]).modify 0 (· ^^^ BitVec.twoPow 8 4) =
      [0x10#8, 0x00#8, 0xAB#8, 0xCD#8, 0x89#8, 0x64#8] ∧
    (frameBytes 0x00#8 [0xAB#8, 0xCD#8]).modify 1 (· ^^^ BitVec.twoPow 8 0) =
      [0x00#8, 0x01#8, 0xAB#8, 0xCD#8, 0x89#8, 0x64#8] ∧
    (frameBytes 0x00#8 [0xAB#8, 0xCD#8]).modify 2 (· ^^^ BitVec.twoPow 8 0) =
      [0x00#8, 0x00#8, 0xAA#8, 0xCD#8, 0x89#8, 0x64#8] ∧
    (frameBytes 0x00#8 [0xAB#8, 0xCD#8]).modify 5 (· ^^^ BitVec.twoPow 8 7) =
      [0x00#8, 0x00#8, 0xAB#8, 0xCD#8, 0x89#8, 0xE4#8] ∧ 5 < 2 + 4 ∧ 7 < 8 := by decide +kernel

/-- The two blocks of the loopback. -/
def loopA : State :=
  { inState .idle .send 0x0002#16 [0xA0#8, 0xA1#8] (List.replicate 4 .accepted) (List.replicate 2 .bytes) [] with
    block.opc := 0x00#8 }

def loopB : State := inState .idle .recv 0x0002#16 [] (List.replicate 2 .accepted) (List.replicate 4 .bytes) []

theorem test_witness_loopback :
    loopA.busy = false ∧ loopB.busy = false ∧ loopA.link.unanswered = false ∧ loopB.link.unanswered = false ∧
    loopA.block.opc = 0x00#8 ∧ loopB.block.nbytes = loopA.block.nbytes ∧
    loopA.block.nbytes.toNat % 2 = 0 ∧ 2 ≤ loopA.block.nbytes.toNat ∧ loopA.block.nbytes.toNat ≤ 510 ∧
    loopA.link.txStream = [] ∧ loopB.link.txStream = [] ∧ loopA.link.txAnswers = List.replicate 4 .accepted ∧
    loopB.link.txAnswers = List.replicate 2 .accepted ∧ loopA.link.rxAnswers = List.replicate 2 .bytes ∧
    loopB.link.rxAnswers = List.replicate 4 .bytes ∧ (∃ u, exec (.send 0x00#8) loopA = .next u) ∧
    (∃ u, exec (.recv 0x00#8) loopB = .next u) :=
  ⟨by decide, by decide, by decide, by decide, by decide, by decide, by decide, by decide, by decide, by decide, by decide,
    by decide, by decide, by decide, by decide, ⟨_, rfl⟩, ⟨_, rfl⟩⟩

end Sys2Proof.Tests
end

section
/-!
PROOFS. Scope: what one step runs (00_scope R8, 20_memory R79), and the frame's fields as numbers (30_encoding R99 to
R101).
-/

namespace Sys2Proof.Machine

/-! ## The dispatch of a step -/

/-- The deployment's variant has a meaning, so a step is a move (00_scope R9). -/
theorem step_eq_move (s : State) : step s = move s := by
  simp only [step, stepUnder, Config.protocolVariant, if_true]

theorem step_scheduled {s : State} {e : Event} {evs : List Event} (h : s.sched = e :: evs) :
    step s = eventMove e { s with sched := evs } := by
  simp only [step_eq_move, move, h]

/-! ## The controller's move, by the head of its program -/

theorem controllerMove_access {s : State} {w : Word} {ops : List CtlOp} (h : s.ctl.program = .access w :: ops) :
    controllerMove s = exec (decodeHost w) { s with ctl.program := ops } := by
  simp only [controllerMove, h]

theorem controllerMove_request {s : State} {r : Request} {i : Instr} {ops : List CtlOp}
    (h : s.ctl.program = .request r :: ops) (hi : decodeRequest r.opcode = .ok i) :
    controllerMove s = exec i { s with ctl.program := ops } := by
  simp only [controllerMove, h, hi]

theorem decodeRequest_read : decodeRequest Request.read.opcode = .ok .readObject := by decide

theorem decodeRequest_write : decodeRequest Request.write.opcode = .ok .writeObject := by decide

/-! ## The arrival of a byte -/

theorem wireMove_row {b : Byte} {i : Instr} (h : decodeReceived b = .ok i) (s : State) : wireMove b s = exec i s := by
  simp only [wireMove, h]

theorem wireMove_noRow {b : Byte} {r : Reject} (h : decodeReceived b = .error r) (s : State) :
    wireMove b s = .next (deliverByte b s) := by
  simp only [wireMove, h]

/-! ## The step, by the scheduled event -/

theorem step_access {s : State} {evs : List Event} {w : Word} {ops : List CtlOp} (hs : s.sched = .controller :: evs)
    (hp : s.ctl.program = .access w :: ops) :
    step s = exec (decodeHost w) { s with sched := evs, ctl.program := ops } :=
  (step_scheduled hs).trans (controllerMove_access hp)

theorem step_request {s : State} {evs : List Event} {r : Request} {i : Instr} {ops : List CtlOp}
    (hs : s.sched = .controller :: evs) (hp : s.ctl.program = .request r :: ops)
    (hi : decodeRequest r.opcode = .ok i) : step s = exec i { s with sched := evs, ctl.program := ops } :=
  (step_scheduled hs).trans (controllerMove_request hp hi)

theorem step_wire_row {s : State} {evs : List Event} {b : Byte} {i : Instr} (hs : s.sched = .wire b :: evs)
    (hb : decodeReceived b = .ok i) : step s = exec i { s with sched := evs } :=
  (step_scheduled hs).trans (wireMove_row hb _)

theorem step_wire_noRow {s : State} {evs : List Event} {b : Byte} {r : Reject} (hs : s.sched = .wire b :: evs)
    (hb : decodeReceived b = .error r) : step s = .next (deliverByte b { s with sched := evs }) :=
  (step_scheduled hs).trans (wireMove_noRow hb _)

/-- Settles O5: the scheduled event picks the agent, and the agent's move picks the instruction. -/
theorem stepRunsDecodedInstr : Obligations.StepRunsDecodedInstr := by
  unfold Obligations.StepRunsDecodedInstr
  intro s evs
  exact ⟨fun _ _ hs hp => step_access hs hp, fun _ hs hp => step_request hs hp decodeRequest_read,
    fun _ hs hp => step_request hs hp decodeRequest_write, fun _ _ hs hb => step_wire_row hs hb,
    fun _ _ hs hb => step_wire_noRow hs hb⟩

/-! ## The placed word -/

/-- A byte that is no client request decodes as a byte of the peer. -/
theorem decodeWire_of_not_request {b : Byte} (hr : b ≠ Request.read.opcode) (hw : b ≠ Request.write.opcode) :
    decodeWire b = decodeReceived b := by
  have hno : decodeRequest b = .error (.noRequest b) := (if_neg hr).trans (if_neg hw)
  simp only [decodeWire, hno]

theorem placeWord_wire_of_not_request {b : Byte} (hr : b ≠ Request.read.opcode) (hw : b ≠ Request.write.opcode)
    (s : State) : placeWord (.wire8 b) s = { s with sched := .wire b :: s.sched } := by
  simp only [placeWord, if_neg hr, if_neg hw]

/-- A code word that decodes is run by the step after it is placed, in the state it was placed in: the step takes off
just what `placeWord` put on. -/
theorem step_placeWord {c : CodeWord} {i : Instr} (h : decode c = .ok i) (s : State) :
    step (placeWord c s) = exec i s := by
  cases c with
  | host32 w =>
    obtain rfl : decodeHost w = i := Except.ok.inj h
    exact step_access (s := placeWord (.host32 w) s) rfl rfl
  | wire8 b =>
    by_cases hr : b = Request.read.opcode
    · subst hr
      obtain rfl : Instr.readObject = i := Except.ok.inj h
      exact step_request (s := placeWord (.wire8 Request.read.opcode) s) rfl rfl decodeRequest_read
    by_cases hw : b = Request.write.opcode
    · subst hw
      obtain rfl : Instr.writeObject = i := Except.ok.inj h
      exact step_request (s := placeWord (.wire8 Request.write.opcode) s) rfl rfl decodeRequest_write
    · have hb : decodeReceived b = .ok i := (decodeWire_of_not_request hr hw).symm.trans h
      rw [placeWord_wire_of_not_request hr hw]
      exact step_wire_row rfl hb

theorem decodeTableWord_eq_some {nbits w : Nat} {i : Instr} (h : decodeTableWord nbits w = some i) :
    decode (codeWordOfBits nbits w) = .ok i := by
  unfold decodeTableWord at h
  split at h
  case h_1 j hj => rw [hj, Option.some.inj h]
  case h_2 => cases h

/-- Settles O6: a table word is placed as the code word it decodes from. -/
theorem placedWordIsRunNext : Obligations.PlacedWordIsRunNext := by
  unfold Obligations.PlacedWordIsRunNext
  intro s nbits w i h
  exact step_placeWord (decodeTableWord_eq_some h) s

/-! ## The frame's fields as numbers -/

/-- Up to the largest payload the length field does not wrap (30_encoding R99). -/
theorem lenField_toNat {n : Nat} (h : n ≤ 510) : (lenField n).toNat = n / 2 - 1 := by
  rw [lenField, BitVec.toNat_ofNat, Nat.mod_eq_of_lt (by omega)]

theorem lo8_toNat (v : Half) : (lo8 v).toNat = v.toNat % 256 := by
  simp [lo8]

theorem hi8_toNat (v : Half) : (hi8 v).toNat = v.toNat / 256 := by
  have hv := v.isLt
  rw [hi8, BitVec.extractLsb'_toNat, Nat.shiftRight_eq_div_pow]
  omega

theorem le16_toNat (c0 c1 : Byte) : (le16 c0 c1).toNat = 256 * c1.toNat + c0.toNat := by
  have h0 := c0.isLt
  rw [le16, BitVec.toNat_append, ← Nat.shiftLeft_add_eq_or_of_lt h0, Nat.shiftLeft_eq]
  omega

/-- The low byte first, the high byte second: the two halves are the quotient and the remainder by 256. -/
theorem le16_lo8_hi8 (c : Half) : le16 (lo8 c) (hi8 c) = c := by
  apply BitVec.eq_of_toNat_eq
  rw [le16_toNat, lo8_toNat, hi8_toNat]
  omega

theorem le16_eq_or_shift (c0 c1 : Byte) : le16 c0 c1 = c0.setWidth 16 ||| (c1.setWidth 16 <<< 8) := by
  rw [le16, BitVec.append_def, BitVec.setWidth'_eq, BitVec.shiftLeftZeroExtend_eq, BitVec.or_comm]

/-- Settles O21: for 2 ≤ N ≤ 510 the field is N/2 - 1 without wrapping, and the checksum's bytes are its quotient and
remainder by 256. -/
theorem frameFieldsStandForTheirValues : Obligations.FrameFieldsStandForTheirValues := by
  unfold Obligations.FrameFieldsStandForTheirValues
  refine ⟨fun n heven hmin hmax => ?_, fun c => ⟨lo8_toNat c, hi8_toNat c, le16_lo8_hi8 c⟩, le16_eq_or_shift⟩
  have hval : (lenField n).toNat = n / 2 - 1 := lenField_toNat hmax
  have hle : (lenField n).toNat ≤ 254 := by omega
  refine ⟨hval, hle, by omega, fun heq => ?_⟩
  have : (lenField n).toNat = 255 := congrArg BitVec.toNat heq
  omega

end Sys2Proof.Machine
end

section
/-!
PROOFS. The block's step as a relation on its registers (10_state R41 to R43): a step goes on with the command, ends it, or
waits for an answer that never comes. Each step of the model is one of these, said once.
-/

namespace Sys2Proof.Machine

/-! ## What an answered step does to the registers -/

/-- A step after which the command goes on: the next state, and what the step writes (41_frame_send R141 to R146,
42_frame_recv R171 to R176). -/
inductive BlockGoesOn (b : Block) : Block → Prop
  | s1 : b.st = .s1 → lengthOk b.nbytes.toNat = true → BlockGoesOn b { b with st := .s2 }
  | s2 : b.st = .s2 → BlockGoesOn b { b with st := .s3 }
  | s3 : b.st = .s3 →
      BlockGoesOn b { b with lenf := lenField b.nbytes.toNat, lenfReg := lenField b.nbytes.toNat, st := .s4 }
  | s4 : b.st = .s4 → BlockGoesOn b { b with st := .s5 }
  | s5 : b.st = .s5 →
      BlockGoesOn b { b with crc := fcs b.opc b.lenf b.payload, fcsAcc := fcs b.opc b.lenf b.payload, st := .s6 }
  | r1 : b.st = .r1 → lengthOk b.nbytes.toNat = true → BlockGoesOn b { b with st := .r2 }
  | r2 : b.st = .r2 → BlockGoesOn b { b with st := .r3 }
  | r3 : b.st = .r3 →
      BlockGoesOn b { b with lenf := lenField b.nbytes.toNat, lenfReg := lenField b.nbytes.toNat, st := .r4 }
  | r4 (bs : List Byte) : b.st = .r4 → bs.length = b.nbytes.toNat →
      BlockGoesOn b { b with buf := b.buf.writeBytes 0 bs, st := .r5 }
  | r5 (received : Half) : b.st = .r5 →
      BlockGoesOn b { b with
        rxcrc := received, crc := fcs Config.responseOpcode b.lenf b.payload,
        fcsAcc := fcs Config.responseOpcode b.lenf b.payload, st := .r6 }

/-- A step that ends the command: the result, ERRBYTE beside it, and what the step had written before (60_exceptions R236,
R240, R241). -/
inductive BlockEnds (b : Block) : Block → Prop
  | badLength : BlockEnds b (b.finish .badLength)
  | timeout : BlockEnds b (b.finish .timeout)
  | transportWrite : BlockEnds b (b.finish .transportWrite)
  | lenfNotSent (l : Byte) : b.st = .s3 → BlockEnds b (Block.finish .transportWrite { b with lenf := l, lenfReg := l })
  | crcNotSent (c : Half) : b.st = .s5 → BlockEnds b (Block.finish .transportWrite { b with crc := c, fcsAcc := c })
  | payloadLost (bs : List Byte) : b.st = .r4 → bs.length = b.nbytes.toNat →
      BlockEnds b (Block.finish .timeout { b with buf := b.buf.writeBytes 0 bs })
  | checksumMismatch : BlockEnds b (b.finish .checksumMismatch)
  | byteRefused (code : ResultCode) (v : Byte) : code ≠ .ok → errbyteFits { b with errbyte := v } code →
      BlockEnds b (Block.finish code { b with errbyte := v })
  | lengthMismatch (v : Byte) : b.st = .r3 →
      BlockEnds b (Block.finish .lengthMismatch { b with lenf := v, lenfReg := v, errbyte := v })
  | crcRunOk (c : Half) : b.st = .c1 → BlockEnds b (Block.finish .ok { b with crc := c, fcsAcc := c })
  | sendOk : b.st = .s6 → BlockEnds b (b.finish .ok)
  | recvOk : b.st = .r6 → b.rxcrc = b.crc → BlockEnds b (b.finish .ok)

/-- A step of a busy block: its transaction is never answered, or the command goes on or ends. -/
inductive StepOutcome (s : State) : State → Prop
  | unanswered (txs : List TxAnswer) (rxs : List RxAnswer) (d : Nat) : s.transacts = true →
      StepOutcome s (s.afterNone txs rxs d)
  | goesOn {t : State} : BlockGoesOn s.block t.block → t.link.unanswered = s.link.unanswered → t.ctl = s.ctl →
      t.sched = s.sched → StepOutcome s t
  | ends {t : State} : BlockEnds s.block t.block → t.link.unanswered = s.link.unanswered → t.ctl = s.ctl →
      t.sched = s.sched → StepOutcome s t

/-! ## Each step of the model is one of these -/

section
variable {s : State}

theorem stepC1_outcome (hst : s.block.st = .c1) : StepOutcome s (stepC1 s) := by
  rcases stepC1_cases s with ⟨-, h⟩ | ⟨-, h⟩ <;> rw [h]
  · exact .ends .badLength rfl rfl rfl
  · exact .ends (.crcRunOk _ hst) rfl rfl rfl

theorem stepS1_outcome (hst : s.block.st = .s1) : StepOutcome s (stepS1 s) := by
  rcases stepS1_cases s with ⟨-, h⟩ | ⟨hl, ⟨a, d, h⟩ | ⟨k, a, d, h⟩ | ⟨a, b, d, -, h⟩⟩ <;> rw [h]
  · exact .ends .badLength rfl rfl rfl
  · exact .goesOn (.s1 hst hl) rfl rfl rfl
  · exact .ends .transportWrite rfl rfl rfl
  · exact .unanswered _ _ _ (by simp [State.transacts, hst, hl])

theorem stepS2_outcome (hst : s.block.st = .s2) : StepOutcome s (stepS2 s) := by
  rcases stepS2_cases s with ⟨k, a, d, h⟩ | ⟨v, a, d, -, ⟨hv, h⟩ | ⟨hf, ho, h⟩ | ⟨-, h⟩⟩ | ⟨a, b, d, -, h⟩ <;> rw [h]
  · exact .ends .timeout rfl rfl rfl
  · exact .ends (.byteRefused .deviceNotReady v (by decide) hv) rfl rfl rfl
  · exact .ends (.byteRefused .unexpectedAck v (by decide) ⟨hf, ho⟩) rfl rfl rfl
  · exact .goesOn (.s2 hst) rfl rfl rfl
  · exact .unanswered _ _ _ (by simp [State.transacts, hst])

theorem stepS3_outcome (hst : s.block.st = .s3) : StepOutcome s (stepS3 s) := by
  rcases stepS3_cases s with ⟨a, d, h⟩ | ⟨k, a, d, h⟩ | ⟨a, b, d, -, h⟩ <;> rw [h]
  · exact .goesOn (.s3 hst) rfl rfl rfl
  · exact .ends (.lenfNotSent _ hst) rfl rfl rfl
  · exact .unanswered _ _ _ (by simp [State.transacts, hst])

theorem stepS4_outcome (hst : s.block.st = .s4) : StepOutcome s (stepS4 s) := by
  rcases stepS4_cases s with ⟨a, d, h⟩ | ⟨k, a, d, h⟩ | ⟨a, b, d, -, h⟩ <;> rw [h]
  · exact .goesOn (.s4 hst) rfl rfl rfl
  · exact .ends .transportWrite rfl rfl rfl
  · exact .unanswered _ _ _ (by simp [State.transacts, hst])

theorem stepS5_outcome (hst : s.block.st = .s5) : StepOutcome s (stepS5 s) := by
  rcases stepS5_cases s _ rfl with ⟨a, d, h⟩ | ⟨k, a, d, h⟩ | ⟨a, b, d, -, h⟩ <;> rw [h]
  · exact .goesOn (.s5 hst) rfl rfl rfl
  · exact .ends (.crcNotSent _ hst) rfl rfl rfl
  · exact .unanswered _ _ _ (by simp [State.transacts, hst])

theorem stepS6_outcome (hst : s.block.st = .s6) : StepOutcome s (stepS6 s) := by
  rcases stepS6_cases s with ⟨k, a, d, h⟩ | ⟨v, a, d, -, ⟨hv, h⟩ | ⟨-, h⟩⟩ | ⟨a, b, d, -, h⟩ <;> rw [h]
  · exact .ends .timeout rfl rfl rfl
  · exact .ends (.byteRefused .deviceRejectedFrame v (by decide) hv) rfl rfl rfl
  · exact .ends (.sendOk hst) rfl rfl rfl
  · exact .unanswered _ _ _ (by simp [State.transacts, hst])

theorem stepR1_outcome (hst : s.block.st = .r1) : StepOutcome s (stepR1 s) := by
  rcases stepR1_cases s with
    ⟨-, h⟩ | ⟨hl, ⟨k, a, d, h⟩ | ⟨v, a, d, -, ⟨hv, h⟩ | ⟨-, h⟩⟩ | ⟨a, b, d, -, h⟩⟩ <;> rw [h]
  · exact .ends .badLength rfl rfl rfl
  · exact .ends .timeout rfl rfl rfl
  · exact .ends (.byteRefused .unexpectedOpcode v (by decide) hv) rfl rfl rfl
  · exact .goesOn (.r1 hst hl) rfl rfl rfl
  · exact .unanswered _ _ _ (by simp [State.transacts, hst, hl])

theorem stepR2_outcome (hst : s.block.st = .r2) : StepOutcome s (stepR2 s) := by
  rcases stepR2_cases s with ⟨a, d, h⟩ | ⟨k, a, d, h⟩ | ⟨a, b, d, -, h⟩ <;> rw [h]
  · exact .goesOn (.r2 hst) rfl rfl rfl
  · exact .ends .transportWrite rfl rfl rfl
  · exact .unanswered _ _ _ (by simp [State.transacts, hst])

theorem stepR3_outcome (hst : s.block.st = .r3) : StepOutcome s (stepR3 s) := by
  rcases stepR3_cases s with ⟨k, a, d, h⟩ | ⟨v, a, d, -, ⟨-, h⟩ | ⟨rfl, h⟩⟩ | ⟨a, b, d, -, h⟩ <;> rw [h]
  · exact .ends .timeout rfl rfl rfl
  · exact .ends (.lengthMismatch v hst) rfl rfl rfl
  · exact .goesOn (.r3 hst) rfl rfl rfl
  · exact .unanswered _ _ _ (by simp [State.transacts, hst])

theorem timeoutBytes_length (draw n : Nat) : (timeoutBytes draw n).length = n := by
  simp [timeoutBytes]

theorem stepR4_outcome (hst : s.block.st = .r4) : StepOutcome s (stepR4 s) := by
  rcases stepR4_cases s with ⟨bs, a, d, hlen, -, h⟩ | ⟨k, a, d, e, h⟩ | ⟨a, b, d, -, h⟩ <;> rw [h]
  · exact .goesOn (.r4 bs hst hlen) rfl rfl rfl
  · exact .ends (.payloadLost _ hst (timeoutBytes_length e _)) rfl rfl rfl
  · exact .unanswered _ _ _ (by simp [State.transacts, hst])

theorem stepR5_outcome (hst : s.block.st = .r5) : StepOutcome s (stepR5 s) := by
  rcases stepR5_cases s with ⟨k, a, d, h⟩ | ⟨c0, c1, a, d, -, h⟩ | ⟨a, b, d, -, h⟩ <;> rw [h]
  · exact .ends .timeout rfl rfl rfl
  · exact .goesOn (.r5 _ hst) rfl rfl rfl
  · exact .unanswered _ _ _ (by simp [State.transacts, hst])

theorem stepR6_outcome (hst : s.block.st = .r6) : StepOutcome s (stepR6 s) := by
  rcases stepR6_cases s with
    ⟨-, ⟨a, d, h⟩ | ⟨k, a, d, h⟩⟩ | ⟨hc, ⟨a, d, h⟩ | ⟨k, a, d, h⟩⟩ | ⟨a, b, d, -, h⟩ <;> rw [h]
  · exact .ends .checksumMismatch rfl rfl rfl
  · exact .ends .transportWrite rfl rfl rfl
  · exact .ends (.recvOk hst hc) rfl rfl rfl
  · exact .ends .transportWrite rfl rfl rfl
  · exact .unanswered _ _ _ (by simp [State.transacts, hst])

end

/-- A busy block's step has one of the three outcomes. -/
theorem blockStep_outcome {s : State} (hbusy : s.block.st ≠ .idle) : StepOutcome s (blockStep s) := by
  unfold blockStep
  split <;> rename_i hst
  · exact absurd hst hbusy
  · exact stepC1_outcome hst
  · exact stepS1_outcome hst
  · exact stepS2_outcome hst
  · exact stepS3_outcome hst
  · exact stepS4_outcome hst
  · exact stepS5_outcome hst
  · exact stepS6_outcome hst
  · exact stepR1_outcome hst
  · exact stepR2_outcome hst
  · exact stepR3_outcome hst
  · exact stepR4_outcome hst
  · exact stepR5_outcome hst
  · exact stepR6_outcome hst

/-- What a block step can do: an idle block does not step, a busy one has one of the three outcomes. -/
theorem blockStep_cases (s : State) :
    (s.block.st = .idle ∧ blockStep s = s) ∨ (s.block.st ≠ .idle ∧ StepOutcome s (blockStep s)) :=
  (eq_or_ne s.block.st .idle).imp (fun h => ⟨h, blockStep_idle h⟩) fun h => ⟨h, blockStep_outcome h⟩

end Sys2Proof.Machine
end

section
/-!
PROOFS. The invariant (Safety.lean): what an idle block and a running one must meet, that a register write and every outcome
of a block step keep it, and so that every step of the machine does.
-/

namespace Sys2Proof.Machine

/-! ## The invariant of an idle block and of a running one -/

/-- Of an idle block the invariant says only what it says of BUF and of the last result. -/
theorem BlockInv.of_idle {b : Block} (hidle : b.st = .idle) (hwf : Memory.wf b.buf)
    (hok : b.ok = (b.done && decide (b.result = .ok))) (herr : b.done = true → errbyteFits b b.result)
    (hrecv : b.ok = true → b.cur = .recv → b.rxcrc = b.crc) : BlockInv b where
  bufWf := hwf
  doneIdle _ := hidle
  okFlag := hok
  curFits := by simp [hidle, commandOfState]
  cleared h := absurd hidle h
  lengthChecked := by simp [hidle, pastLengthCheck]
  lenfHeld := by simp [hidle, lenfFixed]
  sentCrc := by simp [hidle]
  receivedCrc := by simp [hidle]
  errbyteHeld := herr
  recvAgreed := hrecv

/-- A running block has no result: DONE and OK are 0. -/
theorem BlockInv.running {b : Block} (h : BlockInv b) (hrun : b.st ≠ .idle) : b.done = false ∧ b.ok = false := by
  have hdone : b.done = false := Bool.eq_false_iff.2 fun hd => hrun (h.doneIdle hd)
  exact ⟨hdone, by rw [h.okFlag, hdone, Bool.false_and]⟩

/-- A command that ends keeps the invariant if ERRBYTE fits the result and an OK of RECV rests on equal checksums. -/
theorem BlockInv.finish {b : Block} {code : ResultCode} (hwf : Memory.wf b.buf) (herr : errbyteFits b code)
    (hrecv : code = .ok → b.cur = .recv → b.rxcrc = b.crc) : BlockInv (b.finish code) :=
  .of_idle rfl hwf rfl (fun _ => herr) fun hok => hrecv (of_decide_eq_true hok)

/-! ## Register writes and reset -/

theorem BlockInv.raiseFault {b : Block} (h : BlockInv b) : BlockInv b.raiseFault :=
  ⟨h.bufWf, h.doneIdle, h.okFlag, h.curFits, h.cleared, h.lengthChecked, h.lenfHeld, h.sentCrc, h.receivedCrc,
    h.errbyteHeld, h.recvAgreed⟩

theorem BlockInv.reset (epoch : Nat) : BlockInv (Block.reset epoch) :=
  .of_idle rfl memory_wf_nil rfl nofun nofun

/-- The start of a legal command: its first state, with the results cleared. -/
theorem BlockInv.startLegal {b : Block} {code : Byte} {c : Command} (hwf : Memory.wf b.buf)
    (hcode : commandOfCode code = some c) : BlockInv (b.startCommand code) := by
  simp only [Block.startCommand, hcode]
  cases c <;> exact ⟨hwf, nofun, rfl, by simp [firstStateOf, commandOfState], fun _ => ⟨rfl, rfl⟩, nofun, nofun, nofun,
    nofun, nofun, nofun⟩

theorem BlockInv.startCommand {b : Block} (code : Byte) (hwf : Memory.wf b.buf) : BlockInv (b.startCommand code) := by
  cases hcode : commandOfCode code with
  | none =>
    simp only [Block.startCommand, hcode]
    exact .finish hwf hcode nofun
  | some c => exact .startLegal hwf hcode

/-- A register write of an idle block keeps the invariant. -/
theorem BlockInv.writeReg {b : Block} (h : BlockInv b) (hidle : b.st = .idle) (v : Half) (r : Reg) :
    BlockInv (b.writeReg v r) := by
  cases r with
  | cmd => exact .startCommand _ h.bufWf
  | opc | nbytes | seed => exact .of_idle hidle h.bufWf h.okFlag h.errbyteHeld h.recvAgreed
  | buf i => exact .of_idle hidle (memory_wf_writeByte i _ h.bufWf) h.okFlag h.errbyteHeld h.recvAgreed
  | status | result | errbyte | lenf | crc | rxcrc | variant => exact h

/-! ## A step with which the command goes on -/

section
variable {b b' : Block}

/-- What a command carries from its start to its end: DONE, OK, RESULT, ERRBYTE, NBYTES, `cur`. -/
theorem BlockGoesOn.carries (h : BlockGoesOn b b') :
    b'.done = b.done ∧ b'.ok = b.ok ∧ b'.result = b.result ∧ b'.errbyte = b.errbyte ∧ b'.nbytes = b.nbytes ∧
      b'.cur = b.cur := by
  cases h <;> exact ⟨rfl, rfl, rfl, rfl, rfl, rfl⟩

theorem BlockGoesOn.command (h : BlockGoesOn b b') : commandOfState b'.st = commandOfState b.st := by
  cases h <;> simp [commandOfState, *]

theorem BlockGoesOn.bufWf (h : BlockGoesOn b b') (hwf : Memory.wf b.buf) : Memory.wf b'.buf := by
  cases h
  case r4 bs _ _ => exact memory_wf_writeBytes bs 0 hwf
  all_goals exact hwf

/-- The length was checked before, or is in this step. -/
theorem BlockGoesOn.lengthChecked (h : BlockGoesOn b b')
    (hlen : pastLengthCheck b.st = true → lengthOk b.nbytes.toNat = true) : lengthOk b.nbytes.toNat = true := by
  cases h
  case s1 hl | r1 hl => exact hl
  all_goals exact hlen (by simp [pastLengthCheck, *])

/-- `lenf` and LENF were written before, or are in this step. -/
theorem BlockGoesOn.lenfHeld (h : BlockGoesOn b b')
    (hlenf : lenfFixed b.st = true → b.lenf = lenField b.nbytes.toNat ∧ b.lenfReg = b.lenf)
    (hfix : lenfFixed b'.st = true) : b'.lenf = lenField b'.nbytes.toNat ∧ b'.lenfReg = b'.lenf := by
  cases h
  case s3 | r3 => exact ⟨rfl, rfl⟩
  case s1 | s2 | r1 | r2 => cases hfix
  all_goals exact hlenf (by simp [lenfFixed, *])

theorem BlockGoesOn.sentCrc (h : BlockGoesOn b b') (hst : b'.st = .s6) : b'.crc = fcs b'.opc b'.lenf b'.payload := by
  cases h
  case s5 => rfl
  all_goals cases hst

theorem BlockGoesOn.receivedCrc (h : BlockGoesOn b b') (hst : b'.st = .r6) :
    b'.crc = fcs Config.responseOpcode b'.lenf b'.payload := by
  cases h
  case r5 => rfl
  all_goals cases hst

theorem BlockGoesOn.keepsInv (h : BlockGoesOn b b') (hrun : b.st ≠ .idle) (hinv : BlockInv b) : BlockInv b' := by
  obtain ⟨hdone, hok, hresult, herrbyte, hnbytes, hcur⟩ := h.carries
  obtain ⟨hdone0, hok0⟩ := hinv.running hrun
  rw [hdone0] at hdone
  rw [hok0] at hok
  exact {
    bufWf := h.bufWf hinv.bufWf
    doneIdle := by simp [hdone]
    okFlag := by simp [hdone, hok]
    curFits := by rw [h.command, hcur]; exact hinv.curFits
    cleared _ := by rw [hresult, herrbyte]; exact hinv.cleared hrun
    lengthChecked _ := by rw [hnbytes]; exact h.lengthChecked hinv.lengthChecked
    lenfHeld := h.lenfHeld hinv.lenfHeld
    sentCrc := h.sentCrc
    receivedCrc := h.receivedCrc
    errbyteHeld := by simp [hdone]
    recvAgreed := by simp [hok] }

/-! ## A step that ends the command -/

/-- The result fits ERRBYTE, which is 0 while the command runs; only R6 ends a RECV with OK, on equal checksums. -/
theorem BlockEnds.keepsInv (h : BlockEnds b b') (hrun : b.st ≠ .idle) (hinv : BlockInv b) : BlockInv b' := by
  have hzero : b.errbyte = 0x00#8 := (hinv.cleared hrun).2
  cases h with
  | badLength | timeout | transportWrite | checksumMismatch => exact .finish hinv.bufWf hzero nofun
  | lenfNotSent | crcNotSent => exact .finish hinv.bufWf hzero nofun
  | payloadLost bs => exact .finish (memory_wf_writeBytes bs 0 hinv.bufWf) hzero nofun
  | byteRefused code v hcode hfits => exact .finish hinv.bufWf hfits fun hok => absurd hok hcode
  | lengthMismatch v => exact .finish hinv.bufWf rfl nofun
  | crcRunOk c hst =>
    have hcur : b.cur = .crcRun := hinv.curFits _ (by rw [hst]; rfl)
    exact .finish hinv.bufWf hzero fun _ hrecv => by cases hcur.symm.trans hrecv
  | sendOk hst =>
    have hcur : b.cur = .send := hinv.curFits _ (by rw [hst]; rfl)
    exact .finish hinv.bufWf hzero fun _ hrecv => by cases hcur.symm.trans hrecv
  | recvOk _ hagree => exact .finish hinv.bufWf hzero fun _ _ => hagree

end

/-! ## The machine -/

/-- The next step's transaction depends on the block alone. -/
theorem transacts_congr {s t : State} (h : t.block = s.block) : t.transacts = s.transacts := by
  simp only [State.transacts, h]

theorem transacts_idle {s : State} (h : s.block.st = .idle) : s.transacts = false := by
  simp only [State.transacts, h]

/-- The invariant depends on the block and on whether its transaction is left unanswered. -/
theorem State.Inv.congr {s t : State} (h : s.Inv) (hblock : t.block = s.block)
    (hwait : t.link.unanswered = s.link.unanswered) : t.Inv where
  block := hblock ▸ h.block
  waits := by rw [hwait, transacts_congr hblock]; exact h.waits

/-- No transaction of an idle block is left without an answer. -/
theorem State.Inv.answered_of_idle {s : State} (h : s.Inv) (hidle : s.block.st = .idle) :
    s.link.unanswered = false :=
  Bool.eq_false_iff.2 fun hwait => by simpa [transacts_idle hidle] using h.waits hwait

theorem State.Inv.after_blockStep {s : State} (h : s.Inv) : (blockStep s).Inv := by
  by_cases hwait : s.link.unanswered = true
  · rw [blockStep_unanswered hwait (h.waits hwait)]
    exact h
  rcases blockStep_cases s with ⟨-, heq⟩ | ⟨hrun, hout⟩
  · rw [heq]
    exact h
  generalize blockStep s = t at hout ⊢
  cases hout with
  | unanswered txs rxs d htrans => exact ⟨h.block, fun _ => htrans⟩
  | goesOn hadv hun _ _ => exact ⟨hadv.keepsInv hrun h.block, fun ht => absurd (hun ▸ ht) hwait⟩
  | ends hend hun _ _ => exact ⟨hend.keepsInv hrun h.block, fun ht => absurd (hun ▸ ht) hwait⟩

/-- Settles O10, by what a move can do to the block: a register write of an idle block, a refused one of a busy block, a
block step and a reset each keep the invariant. -/
theorem stepKeepsInvariant : Obligations.StepKeepsInvariant := by
  unfold Obligations.StepKeepsInvariant
  intro s t hinv hstep
  rcases step_blockMove hstep with
    ⟨hblock, hwait⟩ | ⟨-, hblock, hlink⟩ | ⟨hbusy, r, v, -, hblock, hlink⟩ | ⟨-, u, hu, huwait, hblock, hlink⟩ |
      ⟨-, hblock, hwait⟩
  · exact hinv.congr hblock hwait
  · refine ⟨hblock ▸ hinv.block.raiseFault, fun ht => ?_⟩
    have hs : s.transacts = true := hinv.waits (hlink ▸ ht)
    simpa [State.transacts, hblock] using hs
  · have hidle : s.block.st = .idle := (busy_eq_false_iff s).1 hbusy
    refine ⟨hblock ▸ hinv.block.writeReg hidle v r, fun ht => ?_⟩
    rw [hlink, hinv.answered_of_idle hidle] at ht
    cases ht
  · exact (hinv.congr hu huwait).after_blockStep.congr hblock (by rw [hlink])
  · exact ⟨hblock ▸ .reset _, fun ht => by rw [hwait] at ht; cases ht⟩

/-- Settles O11: the reset block is idle with no result, and no transaction is in progress. -/
theorem resetMeetsInvariant : Obligations.ResetMeetsInvariant :=
  ⟨.reset 0, nofun⟩

end Sys2Proof.Machine
end

section
/-!
PROOFS. What a block step leaves alone (10_state R32 to R37, R45), how many steps a command has left (10_state R41), and that
only reset clears FAULT (10_state R28).
-/

namespace Sys2Proof.Machine

/-! ## The frame of a block step -/

/-- What a block step leaves of the registers (O14's clauses, of two blocks). -/
structure BlockFrame (b b' : Block) : Prop where
  opc : b'.opc = b.opc
  nbytes : b'.nbytes = b.nbytes
  seed : b'.seed = b.seed
  fault : b'.fault = b.fault
  cmd : b'.cmd = b.cmd
  cur : b'.cur = b.cur
  epoch : b'.epoch = b.epoch
  rxcrc : b.st ≠ .r5 → b'.rxcrc = b.rxcrc
  crc : b.st ≠ .c1 → b.st ≠ .s5 → b.st ≠ .r5 → b'.crc = b.crc ∧ b'.fcsAcc = b.fcsAcc
  lenf : b.st ≠ .s3 → b.st ≠ .r3 → b'.lenfReg = b.lenfReg ∧ b'.lenf = b.lenf
  buf : b.st ≠ .r4 → ∀ i, b'.readBuf i = b.readBuf i
  bufAbove : ∀ i, b.nbytes.toNat ≤ i → b'.readBuf i = b.readBuf i

theorem BlockFrame.refl (b : Block) : BlockFrame b b :=
  ⟨rfl, rfl, rfl, rfl, rfl, rfl, rfl, fun _ => rfl, fun _ _ _ => ⟨rfl, rfl⟩, fun _ _ => ⟨rfl, rfl⟩, fun _ _ => rfl,
    fun _ _ => rfl⟩

/-- Bytes written from index 0 on leave what lies above them. -/
theorem readBuf_writeBytes_above (b : Block) (bs : List Byte) {i : Nat} (h : bs.length ≤ i) :
    ({ b with buf := b.buf.writeBytes 0 bs } : Block).readBuf i = b.readBuf i := by
  simp only [Block.readBuf, memory_lookup_writeBytes_outside bs 0 i b.buf (.inr (by omega))]

section
variable {b b' : Block}

theorem BlockGoesOn.frame (h : BlockGoesOn b b') : BlockFrame b b' where
  opc := by cases h <;> rfl
  nbytes := by cases h <;> rfl
  seed := by cases h <;> rfl
  fault := by cases h <;> rfl
  cmd := by cases h <;> rfl
  cur := by cases h <;> rfl
  epoch := by cases h <;> rfl
  rxcrc hr5 := by
    cases h
    case r5 hst => exact absurd hst hr5
    all_goals rfl
  crc _ hs5 hr5 := by
    cases h
    case s5 hst => exact absurd hst hs5
    case r5 hst => exact absurd hst hr5
    all_goals exact ⟨rfl, rfl⟩
  lenf hs3 hr3 := by
    cases h
    case s3 hst => exact absurd hst hs3
    case r3 hst => exact absurd hst hr3
    all_goals exact ⟨rfl, rfl⟩
  buf hr4 i := by
    cases h
    case r4 hst _ => exact absurd hst hr4
    all_goals rfl
  bufAbove i hi := by
    cases h
    case r4 bs _ hlen => exact readBuf_writeBytes_above b bs (hlen ▸ hi)
    all_goals rfl

theorem BlockEnds.frame (h : BlockEnds b b') : BlockFrame b b' where
  opc := by cases h <;> rfl
  nbytes := by cases h <;> rfl
  seed := by cases h <;> rfl
  fault := by cases h <;> rfl
  cmd := by cases h <;> rfl
  cur := by cases h <;> rfl
  epoch := by cases h <;> rfl
  rxcrc _ := by cases h <;> rfl
  crc hc1 hs5 _ := by
    cases h
    case crcRunOk hst => exact absurd hst hc1
    case crcNotSent hst => exact absurd hst hs5
    all_goals exact ⟨rfl, rfl⟩
  lenf hs3 hr3 := by
    cases h
    case lenfNotSent hst => exact absurd hst hs3
    case lengthMismatch hst => exact absurd hst hr3
    all_goals exact ⟨rfl, rfl⟩
  buf hr4 i := by
    cases h
    case payloadLost hst _ => exact absurd hst hr4
    all_goals rfl
  bufAbove i hi := by
    cases h
    case payloadLost bs _ hlen => exact readBuf_writeBytes_above b bs (hlen ▸ hi)
    all_goals rfl

end

/-- A block step keeps the frame, the controller and the schedule. -/
theorem blockStep_frame (s : State) :
    BlockFrame s.block (blockStep s).block ∧ (blockStep s).ctl = s.ctl ∧ (blockStep s).sched = s.sched := by
  rcases blockStep_cases s with ⟨-, heq⟩ | ⟨-, hout⟩
  · rw [heq]
    exact ⟨.refl _, rfl, rfl⟩
  generalize blockStep s = t at hout ⊢
  cases hout with
  | unanswered => exact ⟨.refl _, rfl, rfl⟩
  | goesOn hadv _ hctl hsched => exact ⟨hadv.frame, hctl, hsched⟩
  | ends hend _ hctl hsched => exact ⟨hend.frame, hctl, hsched⟩

/-- Settles O14: each outcome of a block step has the frame. -/
theorem blockStepFrame : Obligations.BlockStepFrame := by
  unfold Obligations.BlockStepFrame
  intro s
  obtain ⟨h, hctl, hsched⟩ := blockStep_frame s
  exact ⟨h.opc, h.nbytes, h.seed, h.fault, h.cmd, h.cur, h.epoch, h.rxcrc, h.crc, h.lenf, h.buf, h.bufAbove, hctl,
    hsched⟩

/-! ## How many steps a command has left -/

/-- The steps a command still takes if all its transactions succeed: six from S1 and R1, one from C1 (10_state R41). -/
def stepsLeft : St → Nat
  | .idle => 0
  | .c1 | .s6 | .r6 => 1
  | .s5 | .r5 => 2
  | .s4 | .r4 => 3
  | .s3 | .r3 => 4
  | .s2 | .r2 => 5
  | .s1 | .r1 => 6

theorem stepsLeft_le_six (st : St) : stepsLeft st ≤ 6 := by
  cases st <;> decide

theorem idle_of_stepsLeft_eq_zero {st : St} (h : stepsLeft st = 0) : st = .idle := by
  cases st with
  | idle => rfl
  | _ => cases h

theorem BlockGoesOn.stepsLeft_succ {b b' : Block} (h : BlockGoesOn b b') : stepsLeft b'.st + 1 = stepsLeft b.st := by
  cases h <;> simp [stepsLeft, *]

theorem BlockEnds.idle {b b' : Block} (h : BlockEnds b b') : b'.st = .idle := by
  cases h <;> rfl

/-- If no transaction stands without an answer after a block step, none did before, and the command has a step less left. -/
theorem blockStep_progress {s : State} (h : (blockStep s).link.unanswered = false) :
    s.link.unanswered = false ∧ stepsLeft (blockStep s).block.st ≤ stepsLeft s.block.st - 1 := by
  rcases blockStep_cases s with ⟨hidle, heq⟩ | ⟨-, hout⟩
  · rw [heq] at h ⊢
    exact ⟨h, by simp [hidle, stepsLeft]⟩
  generalize blockStep s = t at hout h ⊢
  cases hout with
  | unanswered => simp at h
  | goesOn hadv hwait _ _ => exact ⟨hwait ▸ h, by have := hadv.stepsLeft_succ; omega⟩
  | ends hend hwait _ _ => exact ⟨hwait ▸ h, by simp [hend.idle, stepsLeft]⟩

theorem iterate_blockStep_progress (s : State) (n : Nat) (h : (blockStep^[n] s).link.unanswered = false) :
    stepsLeft (blockStep^[n] s).block.st ≤ 6 - n := by
  induction n with
  | zero => exact stepsLeft_le_six _
  | succ n ih =>
    rw [Function.iterate_succ_apply'] at h ⊢
    obtain ⟨hbefore, hless⟩ := blockStep_progress h
    have := ih hbefore
    omega

/-- A block step left without an answer wrote no register and moved no byte. -/
theorem blockStep_not_answered {s : State} (htrans : s.transacts = true)
    (hwait : (blockStep s).link.unanswered = true) :
    (blockStep s).block = s.block ∧ (blockStep s).link.txStream = s.link.txStream ∧
      (blockStep s).link.rxStream = s.link.rxStream := by
  by_cases hbefore : s.link.unanswered = true
  · rw [blockStep_unanswered hbefore htrans]
    exact ⟨rfl, rfl, rfl⟩
  have hrun : s.block.st ≠ .idle := fun hidle => by simp [transacts_idle hidle] at htrans
  have hout := blockStep_outcome hrun
  generalize blockStep s = t at hout hwait ⊢
  cases hout with
  | unanswered => exact ⟨rfl, rfl, rfl⟩
  | goesOn _ hsame _ _ => exact absurd (hsame ▸ hwait) hbefore
  | ends _ hsame _ _ => exact absurd (hsame ▸ hwait) hbefore

theorem blockStep_c1_idle {s : State} (hst : s.block.st = .c1) : (blockStep s).block.st = .idle := by
  simp only [blockStep, hst]
  rcases stepC1_cases s with ⟨-, h⟩ | ⟨-, h⟩ <;> rw [h] <;> rfl

/-- Settles O15: each answered step takes one from the at most six steps a command has left. -/
theorem commandEndsWithinSixSteps : Obligations.CommandEndsWithinSixSteps := by
  unfold Obligations.CommandEndsWithinSixSteps
  intro s
  refine ⟨fun hanswered => ?_, fun hst => ?_, blockStep_not_answered, blockStep_unanswered⟩
  · have hleft := iterate_blockStep_progress s 6 hanswered
    exact (busy_eq_false_iff _).2 (idle_of_stepsLeft_eq_zero (by omega))
  · exact (busy_eq_false_iff _).2 (blockStep_c1_idle hst)

/-! ## FAULT -/

@[simp] theorem startCommand_fault (code : Byte) (b : Block) : (b.startCommand code).fault = b.fault := by
  unfold Block.startCommand
  split <;> rfl

@[simp] theorem writeReg_fault (b : Block) (v : Half) (r : Reg) : (b.writeReg v r).fault = b.fault := by
  cases r with
  | cmd => exact startCommand_fault _ b
  | _ => rfl

/-- A step that begins with a reset event is that reset (70_reset R265). -/
theorem step_reset {s : State} {evs : List Event} (h : s.sched = .reset :: evs) :
    step s = .next ({ s with sched := evs } : State).applyReset :=
  step_scheduled h

theorem step_reset_block {s t : State} (hreset : s.sched.head? = some .reset) (hstep : step s = .next t) :
    t.block = Block.reset (s.block.epoch + 1) := by
  obtain ⟨evs, hevs⟩ := List.head?_eq_some_iff.1 hreset
  rw [step_reset hevs] at hstep
  cases hstep
  rfl

/-- Without a reset no move clears FAULT. -/
theorem step_keeps_fault {s t : State} (hfault : s.block.fault = true) (hstep : step s = .next t)
    (hreset : s.sched.head? ≠ some .reset) : t.block.fault = true := by
  rcases step_blockMove hstep with
    ⟨hblock, -⟩ | ⟨-, hblock, -⟩ | ⟨-, r, v, -, hblock, -⟩ | ⟨-, u, hu, -, hblock, -⟩ | ⟨hevent, -, -⟩
  · rw [hblock, hfault]
  · rw [hblock, raiseFault_fault]
  · rw [hblock, writeReg_fault, hfault]
  · rw [hblock, (blockStep_frame u).1.fault, hu, hfault]
  · exact absurd hevent hreset

/-- Settles O12: of the moves a step can make only a reset clears FAULT. -/
theorem faultStaysUntilReset : Obligations.FaultStaysUntilReset := by
  unfold Obligations.FaultStaysUntilReset
  intro s t hfault hstep
  exact ⟨if_pos hfault, step_keeps_fault hfault hstep, fun hreset => by rw [step_reset_block hreset hstep]; rfl⟩

end Sys2Proof.Machine
end

section
/-!
PROOFS. What changes an idle block (10_state R43, 44_host_access R222): a write access of the controller, or a reset.
-/

namespace Sys2Proof.Machine

/-! ## An access word, as the read or the write of its fields (30_encoding R91 to R95) -/

theorem dataHi_append_dataLo (d : Half) : dataHi d ++ dataLo d = d := by
  apply BitVec.eq_of_getLsbD_eq
  intro i hi
  rw [BitVec.getLsbD_append]
  by_cases h : i < 8
  · simp [h, dataLo]
  · simp [h, dataHi, show i - 8 < 8 by omega, show 8 + (i - 8) = i by omega]

/-- The four rows of a write to CMD are that write. -/
theorem exec_decodeCommandWrite (d : Half) (s : State) :
    exec (decodeCommandWrite d) s = .next (hostWrite (some .cmd) d s) := by
  have hdata : commandWrite (dataHi d) (dataLo d) s = hostWrite (some .cmd) d s := by
    rw [commandWrite, dataHi_append_dataLo]
  rw [← hdata]
  unfold decodeCommandWrite
  split_ifs with h1 h2 h3
  · rw [h1]; rfl
  · rw [h2]; rfl
  · rw [h3]; rfl
  · rfl

/-- The register an access word writes: none if it is a read or names no register. -/
def writtenReg (w : Word) : Option Reg :=
  if fieldW w then selectReg (fieldRsv w) (fieldReg w) else none

theorem exec_decodeHost_write {w : Word} (hw : fieldW w = true) (s : State) :
    exec (decodeHost w) s = .next (hostWrite (selectReg (fieldRsv w) (fieldReg w)) (fieldData w) s) := by
  rw [decodeHost, if_pos hw]
  split_ifs with hcmd
  · rw [exec_decodeCommandWrite, hcmd.1, hcmd.2]
    rfl
  · rfl

theorem exec_decodeHost_read {w : Word} (hw : fieldW w = false) (s : State) :
    exec (decodeHost w) s = .next (hostRead (selectReg (fieldRsv w) (fieldReg w)) s) := by
  rw [decodeHost, if_neg (Bool.eq_false_iff.1 hw)]
  rfl

/-- `REG[r] <- v` of an idle block, where `r` is selected and not read-only (44_host_access R216). -/
def Block.writeSelected (sel : Option Reg) (v : Half) (b : Block) : Block :=
  match sel with
  | some r => if r.isReadOnly then b else b.writeReg v r
  | none => b

theorem hostWrite_block_idle (sel : Option Reg) (v : Half) {s : State} (hidle : s.busy = false) :
    (hostWrite sel v s).block = s.block.writeSelected sel v := by
  cases sel with
  | none => rfl
  | some r =>
    simp only [hostWrite, Block.writeSelected, hidle, Bool.false_eq_true, if_false]
    split <;> rfl

/-- The block after an access that finds it idle. -/
def accessBlock (w : Word) (b : Block) : Block := b.writeSelected (writtenReg w) (fieldData w)

theorem exec_decodeHost_block {w : Word} {s t : State} (hidle : s.busy = false)
    (h : exec (decodeHost w) s = .next t) : t.block = accessBlock w s.block := by
  cases hw : fieldW w with
  | true =>
    rw [exec_decodeHost_write hw] at h
    cases h
    rw [hostWrite_block_idle _ _ hidle, accessBlock, writtenReg, if_pos hw]
  | false =>
    rw [exec_decodeHost_read hw] at h
    cases h
    rw [hostRead_block, accessBlock, writtenReg, hw]
    rfl

/-! ## The moves of an idle machine -/

/-- A byte of the peer is delivered, whether it has a row or not. -/
theorem wireMove_eq_deliverByte (b : Byte) (s : State) : wireMove b s = .next (deliverByte b s) := by
  unfold wireMove decodeReceived
  split_ifs with h1 h2 h3
  · rw [h1]; rfl
  · rw [h2]; rfl
  · rw [h3]; rfl
  · rfl

theorem deliverByte_block_idle (b : Byte) {s : State} (hidle : s.busy = false) : (deliverByte b s).block = s.block := by
  rcases deliverByte_cases b s with ⟨-, h⟩ | ⟨-, hbusy, -⟩
  · rw [h, state_holdByte_block]
  · simp [hidle] at hbusy

theorem controllerMove_block_access {s t : State} {w : Word} {ops : List CtlOp} (hidle : s.busy = false)
    (hop : s.ctl.program = .access w :: ops) (h : controllerMove s = .next t) : t.block = accessBlock w s.block := by
  rw [controllerMove_access hop] at h
  exact exec_decodeHost_block (s := { s with ctl.program := ops }) hidle h

/-- An operation that is no access leaves the block. -/
theorem controllerMove_block_other {s t : State} (hop : ∀ w ops, s.ctl.program ≠ .access w :: ops)
    (h : controllerMove s = .next t) : t.block = s.block := by
  cases hp : s.ctl.program with
  | nil =>
    simp only [controllerMove, hp] at h
    cases h
    rfl
  | cons op ops =>
    cases op with
    | access w => exact absurd hp (hop w ops)
    | wait =>
      simp only [controllerMove, hp] at h
      cases h
      exact (doWait_frame _ _).1
    | request r =>
      cases r with
      | read =>
        rw [controllerMove_request hp decodeRequest_read] at h
        cases h
        rfl
      | write =>
        rw [controllerMove_request hp decodeRequest_write] at h
        cases h
        rfl
    | checkResult =>
      simp only [controllerMove, hp] at h
      cases h
      exact (doCheckResult_frame _).1
    | collect i =>
      simp only [controllerMove, hp] at h
      cases h
      exact (doCollect_frame i _).1
    | endRead | endWrite =>
      simp only [controllerMove, hp] at h
      cases h
      rfl

/-- With no event scheduled an idle block lets the controller move, as a controller event does. -/
theorem step_idle_controller {s : State} (hidle : s.busy = false)
    (hevent : s.sched = [] ∨ s.sched.head? = some .controller) :
    ∃ evs, step s = controllerMove { s with sched := evs } := by
  rcases hevent with hnil | hhead
  · refine ⟨s.sched, ?_⟩
    simp only [step_eq_move, move, hnil, freeMove, hidle, Bool.false_eq_true, if_false]
    rw [← hnil]
  · obtain ⟨evs, hevs⟩ := List.head?_eq_some_iff.1 hhead
    exact ⟨evs, step_scheduled hevs⟩

section
variable {s t : State}

theorem step_block_access (hidle : s.busy = false) (hstep : step s = .next t)
    (hevent : s.sched = [] ∨ s.sched.head? = some .controller) {w : Word} {ops : List CtlOp}
    (hop : s.ctl.program = .access w :: ops) : t.block = accessBlock w s.block := by
  obtain ⟨evs, h⟩ := step_idle_controller hidle hevent
  exact controllerMove_block_access (s := { s with sched := evs }) hidle hop (h.symm.trans hstep)

theorem step_block_other_op (hidle : s.busy = false) (hstep : step s = .next t)
    (hevent : s.sched = [] ∨ s.sched.head? = some .controller) (hop : ∀ w ops, s.ctl.program ≠ .access w :: ops) :
    t.block = s.block := by
  obtain ⟨evs, h⟩ := step_idle_controller hidle hevent
  exact controllerMove_block_other (s := { s with sched := evs }) hop (h.symm.trans hstep)

theorem step_block_other_event (hidle : s.busy = false) (hstep : step s = .next t)
    (hevent : s.sched.head? = some .block ∨ s.sched.head? = some .flush ∨ ∃ b, s.sched.head? = some (.wire b)) :
    t.block = s.block := by
  rcases hevent with h | h | ⟨b, h⟩ <;> obtain ⟨evs, hevs⟩ := List.head?_eq_some_iff.1 h <;>
    rw [step_scheduled hevs] at hstep
  · cases hstep
    rw [blockStep_idle (s := { s with sched := evs }) ((busy_eq_false_iff s).1 hidle)]
  · cases hstep
    rfl
  · cases (wireMove_eq_deliverByte b _).symm.trans hstep
    exact deliverByte_block_idle b (s := { s with sched := evs }) hidle

/-- What a step that is no reset does to an idle block: nothing, or the access at the head of the controller's program. -/
theorem step_idle_cases (hidle : s.busy = false) (hstep : step s = .next t) (hreset : s.sched.head? ≠ some .reset) :
    t.block = s.block ∨ ∃ w ops, s.ctl.program = .access w :: ops ∧ t.block = accessBlock w s.block := by
  have hctl (hevent : s.sched = [] ∨ s.sched.head? = some .controller) :
      t.block = s.block ∨ ∃ w ops, s.ctl.program = .access w :: ops ∧ t.block = accessBlock w s.block := by
    by_cases hop : ∃ w ops, s.ctl.program = .access w :: ops
    · obtain ⟨w, ops, hop⟩ := hop
      exact .inr ⟨w, ops, hop, step_block_access hidle hstep hevent hop⟩
    · exact .inl (step_block_other_op hidle hstep hevent fun w ops h => hop ⟨w, ops, h⟩)
  cases hs : s.sched.head? with
  | none => exact hctl (.inl (List.head?_eq_none_iff.1 hs))
  | some e =>
    cases e with
    | controller => exact hctl (.inr hs)
    | block => exact .inl (step_block_other_event hidle hstep (.inl hs))
    | flush => exact .inl (step_block_other_event hidle hstep (.inr (.inl hs)))
    | wire b => exact .inl (step_block_other_event hidle hstep (.inr (.inr ⟨b, hs⟩)))
    | reset => exact absurd hs hreset

end

/-! ## The results of an idle block -/

/-- The registers that hold the last command's results, BUF apart. -/
structure SameResults (b b' : Block) : Prop where
  st : b'.st = b.st
  done : b'.done = b.done
  ok : b'.ok = b.ok
  result : b'.result = b.result
  errbyte : b'.errbyte = b.errbyte
  lenfReg : b'.lenfReg = b.lenfReg
  crc : b'.crc = b.crc
  rxcrc : b'.rxcrc = b.rxcrc

theorem SameResults.refl (b : Block) : SameResults b b := ⟨rfl, rfl, rfl, rfl, rfl, rfl, rfl, rfl⟩

/-- Only a write to CMD touches the results (44_host_access R222). -/
theorem writeReg_sameResults (b : Block) (v : Half) {r : Reg} (hr : r ≠ .cmd) : SameResults b (b.writeReg v r) := by
  cases r with
  | cmd => exact absurd rfl hr
  | _ => exact ⟨rfl, rfl, rfl, rfl, rfl, rfl, rfl, rfl⟩

/-- Only a write to BUF[i], or to CMD, could touch BUF[i]. -/
theorem writeReg_readBuf (b : Block) (v : Half) {r : Reg} {i : Nat} (hcmd : r ≠ .cmd)
    (hbuf : i < Config.bufBytes → r ≠ .buf i) : (b.writeReg v r).readBuf i = b.readBuf i := by
  cases r with
  | cmd => exact absurd rfl hcmd
  | buf j =>
    have hij : ¬(i = j ∧ j < Config.bufBytes) := by
      rintro ⟨rfl, hlt⟩
      exact hbuf hlt rfl
    simp only [Block.writeReg, Block.readBuf, memory_lookup_writeByte, if_neg hij]
  | _ => rfl

theorem writtenReg_eq_some {w : Word} {r : Reg} (h : writtenReg w = some r) :
    fieldW w = true ∧ fieldRsv w = 0#5 ∧ fieldReg w = r.number := by
  unfold writtenReg selectReg at h
  split_ifs at h with hw hrsv
  exact ⟨hw, hrsv, (number_ofNumber h).symm⟩

theorem buf_number_toNat {i : Nat} (h : i < Config.bufBytes) : (Reg.buf i).number.toNat = 0x100 + i := by
  unfold Config.bufBytes at h
  rw [Reg.number, BitVec.toNat_ofNat, Nat.mod_eq_of_lt (by omega)]

section
variable {b : Block} {w : Word}

/-- An access leaves an idle block, or writes the register it names. -/
theorem accessBlock_cases (w : Word) (b : Block) :
    accessBlock w b = b ∨ ∃ r, writtenReg w = some r ∧ accessBlock w b = b.writeReg (fieldData w) r := by
  unfold accessBlock Block.writeSelected
  split
  case h_1 r hr =>
    split
    · exact .inl rfl
    · exact .inr ⟨r, hr, rfl⟩
  case h_2 => exact .inl rfl

theorem writtenReg_ne_cmd (hw : ¬(fieldW w = true ∧ fieldRsv w = 0#5 ∧ fieldReg w = 0x000#10)) {r : Reg}
    (h : writtenReg w = some r) : r ≠ .cmd := by
  rintro rfl
  exact hw (writtenReg_eq_some h)

theorem accessBlock_sameResults (hcmd : ¬(fieldW w = true ∧ fieldRsv w = 0#5 ∧ fieldReg w = 0x000#10)) :
    SameResults b (accessBlock w b) := by
  rcases accessBlock_cases w b with h | ⟨r, hr, h⟩ <;> rw [h]
  · exact .refl b
  · exact writeReg_sameResults b _ (writtenReg_ne_cmd hcmd hr)

theorem accessBlock_readBuf {i : Nat} (hcmd : ¬(fieldW w = true ∧ fieldRsv w = 0#5 ∧ fieldReg w = 0x000#10))
    (hbuf : ¬(fieldW w = true ∧ fieldRsv w = 0#5 ∧ (fieldReg w).toNat = 0x100 + i)) :
    (accessBlock w b).readBuf i = b.readBuf i := by
  rcases accessBlock_cases w b with h | ⟨r, hr, h⟩ <;> rw [h]
  refine writeReg_readBuf b _ (writtenReg_ne_cmd hcmd hr) fun hi => ?_
  rintro rfl
  obtain ⟨hw, hrsv, hreg⟩ := writtenReg_eq_some hr
  exact hbuf ⟨hw, hrsv, by rw [hreg, buf_number_toNat hi]⟩

end

/-- Settles O16, by the scheduled event: an idle block is left alone but for a reset and for the access at the head of the
controller's program, and an access touches the results only as a write to CMD or to BUF. -/
theorem idleBlockChangesOnlyByWriteOrReset : Obligations.IdleBlockChangesOnlyByWriteOrReset := by
  unfold Obligations.IdleBlockChangesOnlyByWriteOrReset
  intro s t hidle hstep
  refine ⟨fun hreset => step_reset_block hreset hstep, step_block_other_event hidle hstep,
    fun hevent => ⟨fun w ops hop => step_block_access hidle hstep hevent hop, step_block_other_op hidle hstep hevent⟩,
    fun ⟨_, hdone⟩ hreset hcmd => ?_⟩
  have hresults : SameResults s.block t.block := by
    rcases step_idle_cases hidle hstep hreset with h | ⟨w, ops, hop, h⟩ <;> rw [h]
    · exact .refl _
    · exact accessBlock_sameResults (hcmd w ops hop)
  have hready : t.resultsReady :=
    ⟨(busy_eq_false_iff t).2 (hresults.st.trans ((busy_eq_false_iff s).1 hidle)), hresults.done.trans hdone⟩
  refine ⟨hready, hresults.ok, hresults.result, hresults.errbyte, hresults.lenfReg, hresults.crc, hresults.rxcrc,
    fun i hbuf => ?_⟩
  rcases step_idle_cases hidle hstep hreset with h | ⟨w, ops, hop, h⟩ <;> rw [h]
  exact accessBlock_readBuf (hcmd w ops hop) (hbuf w ops hop)

end Sys2Proof.Machine
end

section
/-!
PROOFS. The registers as they read (10_state R22 to R31, 44_host_access R215, R219), the end of a command (60_exceptions R240),
and the single events (70_reset R265 to R269).
-/

namespace Sys2Proof.Machine

/-! ## Single events -/

/-- Settles O7: an event is the move of its agent; an idle block's step and an empty program's move change nothing. -/
theorem scheduledEventsMoveTheirAgent : Obligations.ScheduledEventsMoveTheirAgent := by
  unfold Obligations.ScheduledEventsMoveTheirAgent
  intro s evs
  have hblock (h : s.sched = .block :: evs) : step s = .next (blockStep { s with sched := evs }) := step_scheduled h
  refine ⟨hblock, fun h hidle => ?_, step_scheduled, step_reset, fun h hprogram => ?_⟩
  · rw [hblock h, blockStep_idle (s := { s with sched := evs }) hidle]
  · rw [step_scheduled h]
    simp only [eventMove, controllerMove, hprogram]

/-- A block just reset has only unspecified bytes in BUF (10_state R47). -/
theorem readBuf_reset (epoch i : Nat) : (Block.reset epoch).readBuf i = Config.bufByte epoch i := rfl

theorem statusByte_reset (epoch : Nat) : (Block.reset epoch).statusByte = 0x00#8 := by
  simp [Block.statusByte, Block.busy, Block.reset]

/-- Settles O34: the reset event is `State.applyReset`, and the block it leaves is idle. -/
theorem resetAbandonsCommand : Obligations.ResetAbandonsCommand := by
  unfold Obligations.ResetAbandonsCommand
  intro s evs h
  exact ⟨_, step_reset h, statusByte_reset _, rfl, rfl, rfl, rfl, rfl, rfl, rfl, rfl, rfl, rfl, readBuf_reset _, rfl, rfl,
    blockStep_idle rfl⟩

/-- Settles O35: the values of `Block.reset`. -/
theorem powerUpValues : Obligations.PowerUpValues :=
  ⟨statusByte_reset 0, rfl, rfl, rfl, rfl, rfl, rfl, rfl, rfl, rfl, rfl, rfl⟩

/-! ## Reads -/

/-- A read that is exact: of an idle block, or of a register a busy block does not hide (44_host_access R219). -/
theorem hostRead_exact {r : Reg} {s : State} (h : s.busy = false ∨ r.isHiddenWhileBusy = false) :
    hostRead (some r) s = { s with ctl.data := s.block.readReg r } := by
  have hshown : (s.busy && r.isHiddenWhileBusy) = false := Bool.and_eq_false_iff.2 h
  simp only [hostRead, hshown, Bool.false_eq_true, if_false]

theorem exec_hostRd_exact {n : BitVec 10} {r : Reg} (hn : Reg.ofNumber n = some r) (data : Half) {s : State}
    (h : s.busy = false ∨ r.isHiddenWhileBusy = false) :
    exec (.hostRd 0#5 n data) s = .next { s with ctl.data := s.block.readReg r } := by
  have hsel : selectReg 0#5 n = some r := (if_pos rfl).trans hn
  simp only [exec, execHostRd, hsel, hostRead_exact h]

/-- Settles O23: each number names its register, which the read shows. -/
theorem exactReadsReturnRegister : Obligations.ExactReadsReturnRegister := by
  unfold Obligations.ExactReadsReturnRegister
  intro data s
  refine ⟨exec_hostRd_exact (r := .status) rfl data (.inr rfl), exec_hostRd_exact (r := .opc) rfl data (.inr rfl),
    exec_hostRd_exact (r := .nbytes) rfl data (.inr rfl), exec_hostRd_exact (r := .seed) rfl data (.inr rfl),
    exec_hostRd_exact (r := .variant) rfl data (.inr rfl), fun hidle => ?_⟩
  exact ⟨exec_hostRd_exact (r := .result) rfl data (.inl hidle), exec_hostRd_exact (r := .errbyte) rfl data (.inl hidle),
    exec_hostRd_exact (r := .lenf) rfl data (.inl hidle), exec_hostRd_exact (r := .crc) rfl data (.inl hidle),
    exec_hostRd_exact (r := .rxcrc) rfl data (.inl hidle),
    fun i hi => exec_hostRd_exact (ofNumber_buf hi) data (.inl hidle)⟩

/-- Bit `k` of STATUS (10_state R24). -/
theorem statusByte_bit (b : Block) (k : Nat) :
    b.statusByte.getLsbD k = [b.busy, b.done, b.ok, b.fault].getD k false := by
  unfold Block.statusByte
  simp only [BitVec.getLsbD_append]
  match k with
  | 0 | 1 | 2 | 3 => simp
  | k + 4 => simp

/-- Settles O25: STATUS is its four bits, and nothing above them. -/
theorem statusBitsRead : Obligations.StatusBitsRead := by
  unfold Obligations.StatusBitsRead
  intro s
  refine ⟨statusByte_bit _ 0, statusByte_bit _ 1, statusByte_bit _ 2, statusByte_bit _ 3, fun k hk => ?_⟩
  rw [statusByte_bit, List.getD_eq_default _ _ hk]

/-! ## Results -/

theorem toByte_toNat_le (c : ResultCode) : c.toByte.toNat ≤ 0x0A := by
  cases c <;> decide

/-- Settles O26: the table of R236, and its bound code by code. -/
theorem resultCodesAreNumbered : Obligations.ResultCodesAreNumbered :=
  ⟨rfl, toByte_toNat_le⟩

/-- Settles O33: `Finish` is the update that R240 writes, and leaves `st` IDLE. -/
theorem finishEndsCommand : Obligations.FinishEndsCommand :=
  fun _ _ => ⟨rfl, rfl⟩

end Sys2Proof.Machine
end

section
/-!
PROOFS. Writes to an idle block (20_memory R62, 44_host_access R216), the transport transactions (20_memory R70, R71), the
payload of RECV in BUF (42_frame_recv R175), and where a byte of the peer goes (20_memory R79 to R81).
-/

namespace Sys2Proof.Machine

/-! ## Writes to an idle block -/

theorem hostWrite_idle {r : Reg} (hrw : r.isReadOnly = false) (v : Half) {s : State} (hidle : s.busy = false) :
    hostWrite (some r) v s = { s with block := s.block.writeReg v r } := by
  simp only [hostWrite, hrw, hidle, Bool.false_eq_true, if_false]

theorem exec_hostWr_idle {n : BitVec 10} {r : Reg} (hn : Reg.ofNumber n = some r) (hrw : r.isReadOnly = false) (v : Half)
    {s : State} (hidle : s.busy = false) :
    exec (.hostWr 0#5 n v) s = .next { s with block := s.block.writeReg v r } := by
  have hsel : selectReg 0#5 n = some r := (if_pos rfl).trans hn
  simp only [exec, execHostWr, hsel, hostWrite_idle hrw v hidle]

/-- Settles O27: each number names its register, and the write is `Block.writeReg` of it. -/
theorem idleWritesSetRegister : Obligations.IdleWritesSetRegister := by
  unfold Obligations.IdleWritesSetRegister
  intro v s hidle
  rw [← lo8_eq_setWidth]
  refine ⟨exec_hostWr_idle (r := .opc) rfl rfl v hidle, exec_hostWr_idle (r := .nbytes) rfl rfl v hidle,
    exec_hostWr_idle (r := .seed) rfl rfl v hidle, fun i hi => ⟨s.block.buf.writeByte i (lo8 v), ?_, ?_, fun j hj => ?_⟩⟩
  · exact exec_hostWr_idle (ofNumber_buf hi) rfl v hidle
  · rw [readBuf_writeByte s.block i i _ hi, if_pos rfl]
  · rw [readBuf_writeByte s.block i j _ hi, if_neg hj]

/-! ## The payload of RECV -/

/-- `RxGroup(n)` that ends with bytes gives `n` of them and leaves the block. -/
theorem rxGroup_bytes {n : Nat} {s t : State} {bs : List Byte} (h : rxGroup n s = (.bytes bs, t)) :
    bs.length = n ∧ t.block = s.block := by
  rcases rxGroup_cases n s with ⟨_, _, _, -, -, hlen, -, h'⟩ | ⟨_, _, _, -, -, h'⟩ | ⟨_, _, _, -, h'⟩ <;>
    cases h.symm.trans h'
  exact ⟨hlen, rfl⟩

/-- `RxGroup(n)` that times out leaves the block. -/
theorem rxGroup_timeout_block {n : Nat} {s t : State} (h : rxGroup n s = (.timeout, t)) : t.block = s.block := by
  rcases rxGroup_cases n s with ⟨_, _, _, -, -, -, -, h'⟩ | ⟨_, _, _, -, -, h'⟩ | ⟨_, _, _, -, h'⟩ <;>
    cases h.symm.trans h'
  rfl

theorem timeoutBytes_getD (draw : Nat) {i n : Nat} (h : i < n) (dflt : Byte) :
    (timeoutBytes draw n).getD i dflt = Config.timeoutByte draw i := by
  simp [timeoutBytes, h]

section
variable {s t : State}

theorem blockStep_r4_bytes {bs : List Byte} (hst : s.block.st = .r4)
    (h : rxGroup s.block.nbytes.toNat s = (.bytes bs, t)) :
    blockStep s = { t with block.buf := s.block.buf.writeBytes 0 bs, block.st := .r5 } := by
  simp only [blockStep, hst, stepR4, h, State.goto, (rxGroup_bytes h).2]

theorem blockStep_r4_timeout (hst : s.block.st = .r4) (h : rxGroup s.block.nbytes.toNat s = (.timeout, t)) :
    blockStep s = State.finish .timeout
      { t with block.buf := s.block.buf.writeBytes 0 (timeoutBytes t.draws s.block.nbytes.toNat), draws := t.draws + 1 } := by
  simp only [blockStep, hst, stepR4, h, rxGroup_timeout_block h]

end

/-- Settles O43: R4 writes N bytes from BUF[0] on, those received or, after a timeout, free ones. -/
theorem recvStep4StoresPayload : Obligations.RecvStep4StoresPayload := by
  unfold Obligations.RecvStep4StoresPayload
  intro s t hst hfit
  refine ⟨fun bs h => ⟨_, blockStep_r4_bytes hst h, fun i => ?_⟩, fun h => ⟨_, blockStep_r4_timeout hst h, fun i => ?_⟩⟩
  · have hlen := (rxGroup_bytes h).1
    rw [readBuf_writeBytes s.block bs i (hlen.trans_le hfit), hlen]
  · have hlen := timeoutBytes_length t.draws s.block.nbytes.toNat
    rw [readBuf_writeBytes s.block _ i (hlen.trans_le hfit), hlen]
    split_ifs with hi
    · exact timeoutBytes_getD t.draws hi _
    · rfl

/-! ## A byte that a one-byte group waits for -/

section
variable {b c : Byte} {s : State} {rest : List Byte}

/-- The state once a one-byte group, answered when a byte arrives, has left `rest` of the stream. -/
def State.afterByte (rest : List Byte) (s : State) : State := s.afterRx rest s.link.rxAnswers (s.draws + 1)

variable (hanswered : s.link.unanswered = false) (hstream : s.link.rxStream ++ [b] = c :: rest)
include hanswered hstream

/-- A one-byte group answered when `b` arrives takes the next byte of the stream, `b` standing behind the bytes held
(20_memory R81; log entry 16). -/
theorem receiveByte_arrived (next : Byte → State → State) :
    receiveByte next (s.holdByte b).answerBytes = next c (s.afterByte rest) :=
  receiveByte_held (s := (s.holdByte b).answerBytes) next hanswered rfl hstream

theorem deliverByte_s2 (hst : s.block.st = .s2) :
    deliverByte b s =
      if c = Config.tokenF then (s.afterByte rest).finishWith .deviceNotReady c
      else if c ≠ Config.tokenO then (s.afterByte rest).finishWith .unexpectedAck c
      else (s.afterByte rest).goto .s3 := by
  have hwait : s.awaitsByte = true := by simp [State.awaitsByte, hanswered, hst]
  simp only [deliverByte, if_pos hwait, blockStep, state_answerBytes_block, state_holdByte_block, hst, stepS2,
    receiveByte_arrived hanswered hstream]

theorem deliverByte_s6 (hst : s.block.st = .s6) :
    deliverByte b s =
      if c ≠ Config.tokenO then (s.afterByte rest).finishWith .deviceRejectedFrame c
      else (s.afterByte rest).finish .ok := by
  have hwait : s.awaitsByte = true := by simp [State.awaitsByte, hanswered, hst]
  simp only [deliverByte, if_pos hwait, blockStep, state_answerBytes_block, state_holdByte_block, hst, stepS6,
    receiveByte_arrived hanswered hstream]

theorem deliverByte_r1 (hst : s.block.st = .r1) (hlen : lengthOk s.block.nbytes.toNat = true) :
    deliverByte b s =
      if c ≠ Config.responseOpcode then (s.afterByte rest).finishWith .unexpectedOpcode c
      else (s.afterByte rest).goto .r2 := by
  have hwait : s.awaitsByte = true := by simp [State.awaitsByte, hanswered, hst, hlen]
  simp only [deliverByte, if_pos hwait, blockStep, state_answerBytes_block, state_holdByte_block, hst, stepR1, if_pos hlen,
    receiveByte_arrived hanswered hstream]

theorem deliverByte_r3 (hst : s.block.st = .r3) :
    deliverByte b s =
      if c ≠ lenField s.block.nbytes.toNat then ((s.afterByte rest).withLenf c).finishWith .lengthMismatch c
      else ((s.afterByte rest).withLenf c).goto .r4 := by
  have hwait : s.awaitsByte = true := by simp [State.awaitsByte, hanswered, hst]
  simp only [deliverByte, if_pos hwait, blockStep, state_answerBytes_block, state_holdByte_block, hst, stepR3,
    receiveByte_arrived hanswered hstream]
  rfl

end

/-- Settles O46: the three rows are the arrival of their byte, and the arrival is the waiting state's step on the next byte
of the stream. -/
theorem peerByteAnswersWaitingGroup : Obligations.PeerByteAnswersWaitingGroup := by
  unfold Obligations.PeerByteAnswersWaitingGroup
  refine ⟨fun i b hrow s => ?_, ?_⟩
  · simp only [List.mem_cons, Prod.mk.injEq, List.not_mem_nil, or_false] at hrow
    rcases hrow with ⟨rfl, rfl⟩ | ⟨rfl, rfl⟩ | ⟨rfl, rfl⟩ <;> rfl
  rintro b s u c rest hanswered hstream rfl
  refine ⟨fun hst => ?_, fun hst => ?_, fun heven hmin hmax => ⟨fun hst => ?_, fun hst => ?_⟩⟩
  · rw [deliverByte_s2 hanswered hstream hst]
    refine ⟨?_, fun hF => if_pos hF, fun hO hF => (if_neg hF).trans (if_pos hO)⟩
    rintro rfl
    rfl
  · rw [deliverByte_s6 hanswered hstream hst]
    exact ⟨fun hO => if_neg (not_not.2 hO), fun hO => if_pos hO⟩
  · rw [deliverByte_r1 hanswered hstream hst ((lengthOk_iff _).2 ⟨heven, hmin, hmax⟩)]
    exact ⟨fun h0 => if_neg (not_not.2 h0), fun h0 => if_pos h0⟩
  · rw [deliverByte_r3 hanswered hstream hst]
    exact ⟨fun hl => if_neg (not_not.2 hl), fun hl => if_pos hl⟩

/-! ## A byte that no one-byte group waits for -/

theorem awaitsByte_unanswered {s : State} (h : s.link.unanswered = true) : s.awaitsByte = false := by
  simp only [State.awaitsByte, h, Bool.not_true, Bool.false_and]

theorem awaitsByte_other_st {s : State}
    (h : s.block.st ∈ [St.idle, .c1, .s1, .s3, .s4, .s5, .r2, .r4, .r5, .r6]) : s.awaitsByte = false := by
  unfold State.awaitsByte
  split <;> simp_all

theorem awaitsByte_r1_refused {s : State} (hst : s.block.st = .r1) (h : lengthOk s.block.nbytes.toNat = false) :
    s.awaitsByte = false := by
  simp only [State.awaitsByte, hst, h, Bool.and_false]

theorem lengthOk_eq_false {n : Nat} (h : n % 2 = 1 ∨ n < 2 ∨ n > 510) : lengthOk n = false := by
  rw [Bool.eq_false_iff, Ne, lengthOk_iff]
  omega

theorem deliverByte_unawaited (b : Byte) {s : State} (h : s.awaitsByte = false) : deliverByte b s = s.holdByte b :=
  if_neg (Bool.eq_false_iff.1 h)

/-- Settles O47: in each of these states the block waits for no byte, so the byte that arrives is held. -/
theorem unaskedByteIsHeld : Obligations.UnaskedByteIsHeld := by
  unfold Obligations.UnaskedByteIsHeld
  intro s hstate
  have hwait : s.awaitsByte = false := by
    rcases hstate with hst | ⟨hst, hlen⟩ | hnever
    · exact awaitsByte_other_st hst
    · exact awaitsByte_r1_refused hst (lengthOk_eq_false hlen)
    · exact awaitsByte_unanswered hnever
  have hheld (b : Byte) : deliverByte b s = s.holdByte b := deliverByte_unawaited b hwait
  exact ⟨congrArg _ (hheld _), congrArg _ (hheld _), congrArg _ (hheld _), hheld⟩

/-! ## Transport transactions -/

theorem txGroup_never {s : State} (bs : List Byte) (hanswered : s.link.unanswered = false)
    (hn : s.nextTxAnswer = .never) :
    ∃ answers d, txGroup bs s = (.unanswered, s.afterNone answers s.link.rxAnswers d) := by
  obtain ⟨answers, d, h⟩ := dropTxAnswer_eq s
  exact ⟨answers, d, by simp [txGroup, hanswered, hn, h, State.afterNone]⟩

theorem rxGroup_never {s : State} (n : Nat) (hanswered : s.link.unanswered = false) (hn : s.nextRxAnswer = .never) :
    ∃ answers d, rxGroup n s = (.unanswered, s.afterNone s.link.txAnswers answers d) := by
  obtain ⟨answers, d, h⟩ := dropRxAnswer_eq s
  exact ⟨answers, d, by simp [rxGroup, hanswered, hn, h, State.afterNone]⟩

/-- Settles O32, by the environment's answer to the one transaction and to the other. -/
theorem transportTransactionsMoveWholeGroups : Obligations.TransportTransactionsMoveWholeGroups := by
  unfold Obligations.TransportTransactionsMoveWholeGroups
  refine ⟨fun bs s hanswered => ?_, fun n s hanswered => ?_,
    fun bs n s hnever => ⟨txGroup_unanswered bs hnever, rxGroup_unanswered n hnever⟩⟩
  · rcases txGroup_cases bs s with ⟨a, d, -, hn, h⟩ | ⟨k, a, d, -, hn, h⟩ | ⟨_, _, _, hno, -⟩
    · refine ⟨a, d, bs, false, ?_⟩
      rw [hn, h, ← hanswered]
      exact ⟨fun _ => ⟨rfl, rfl, rfl⟩, nofun, nofun, rfl⟩
    · refine ⟨a, d, bs.take k, false, ?_⟩
      rw [hn, h, ← hanswered]
      exact ⟨nofun, fun _ _ => ⟨List.take_prefix k bs, rfl, rfl⟩, nofun, rfl⟩
    · have hn : s.nextTxAnswer = .never := hno.resolve_left (Bool.eq_false_iff.1 hanswered)
      obtain ⟨a, d, h⟩ := txGroup_never bs hanswered hn
      refine ⟨a, d, [], true, ?_⟩
      rw [hn, h, List.append_nil]
      exact ⟨nofun, nofun, fun _ => ⟨rfl, rfl, rfl⟩, rfl⟩
  · rcases rxGroup_cases n s with ⟨bs, a, d, -, hn, hlen, htake, h⟩ | ⟨k, a, d, -, hn, h⟩ | ⟨_, _, _, hno, -⟩
    · rw [hn]
      exact ⟨fun _ => ⟨bs, a, d, hlen, htake, h⟩, nofun, nofun⟩
    · rw [hn]
      exact ⟨nofun, fun _ _ => ⟨a, d, _, h⟩, nofun⟩
    · have hn : s.nextRxAnswer = .never := hno.resolve_left (Bool.eq_false_iff.1 hanswered)
      rw [hn]
      exact ⟨nofun, nofun, fun _ => rxGroup_never n hanswered hn⟩

end Sys2Proof.Machine
end

section
/-!
PROOFS. Encoding and decoding (30_encoding R91 to R102, R110), and the rows of a write to CMD (R93 to R95, 44_host_access
R217).
-/

namespace Sys2Proof.Machine

/-! ## The fields of an access word (30_encoding R91) -/

section
variable (w : BitVec 1) (rsv : BitVec 5) (reg : BitVec 10) (data : Half) (hi code : Byte)

@[simp] theorem fieldData_hostWord : fieldData (hostWord w rsv reg data) = data :=
  BitVec.extractLsb'_append_eq_right

@[simp] theorem fieldReg_hostWord : fieldReg (hostWord w rsv reg data) = reg :=
  (BitVec.extractLsb'_append_eq_of_le (by decide)).trans BitVec.extractLsb'_append_eq_right

@[simp] theorem fieldRsv_hostWord : fieldRsv (hostWord w rsv reg data) = rsv :=
  (BitVec.extractLsb'_append_eq_of_le (by decide)).trans
    ((BitVec.extractLsb'_append_eq_of_le (by decide)).trans BitVec.extractLsb'_append_eq_right)

@[simp] theorem fieldW_hostWord : fieldW (hostWord w rsv reg data) = w.getLsbD 0 := by
  rw [fieldW, hostWord, BitVec.getLsbD_append, BitVec.getLsbD_append, BitVec.getLsbD_append]
  rfl

@[simp] theorem dataLo_append : dataLo (hi ++ code) = code := BitVec.extractLsb'_append_eq_right

@[simp] theorem dataHi_append : dataHi (hi ++ code) = hi := BitVec.extractLsb'_append_eq_left

end

/-- A word is the word of its four fields. -/
theorem hostWord_fields (w : Word) :
    hostWord (BitVec.ofBool (fieldW w)) (fieldRsv w) (fieldReg w) (fieldData w) = w := by
  apply BitVec.eq_of_getLsbD_eq
  intro i hi
  rw [hostWord, BitVec.getLsbD_append, BitVec.getLsbD_append, BitVec.getLsbD_append]
  simp only [fieldData, fieldReg, fieldRsv, fieldW, BitVec.getLsbD_extractLsb', BitVec.getLsbD_ofBool]
  split_ifs with hdata hreg hrsv
  · simp [hdata]
  · simp [hreg, Nat.add_sub_cancel' (Nat.le_of_not_lt hdata)]
  · simp [hrsv, show 26 + (i - 16 - 10) = i by omega]
  · simp [show i = 31 by omega]

/-! ## HOST32 words (30_encoding R92 to R95) -/

theorem decodeHost_read (rsv : BitVec 5) (reg : BitVec 10) (data : Half) :
    decodeHost (hostWord 0#1 rsv reg data) = .hostRd rsv reg data := by
  simp [decodeHost]

theorem decodeHost_write {rsv : BitVec 5} {reg : BitVec 10} (data : Half) (h : ¬(rsv = 0#5 ∧ reg = 0#10)) :
    decodeHost (hostWord 1#1 rsv reg data) = .hostWr rsv reg data := by
  simp [decodeHost, h]

/-- A word that writes to CMD is decoded by its code. -/
theorem decodeHost_commandWord (hi code : Byte) :
    decodeHost (commandWord hi code) = decodeCommandWrite (hi ++ code) := by
  simp [decodeHost, commandWord]

theorem decodeCommandWrite_illegal (hi : Byte) {code : Byte} (h : isCommandCode code = false) :
    decodeCommandWrite (hi ++ code) = .cmdIllegal hi code := by
  simp only [isCommandCode, Bool.or_eq_false_iff, beq_eq_false_iff_ne] at h
  obtain ⟨⟨h1, h2⟩, h3⟩ := h
  simp [decodeCommandWrite, h1, h2, h3]

/-- What a write to CMD decodes to is well formed and encodes to that write. -/
theorem decodeCommandWrite_spec (d : Half) :
    WellFormed (decodeCommandWrite d) = true ∧
      encode (decodeCommandWrite d) = .host32 (commandWord (dataHi d) (dataLo d)) := by
  unfold decodeCommandWrite
  split_ifs with h1 h2 h3
  · exact ⟨rfl, by rw [h1]; rfl⟩
  · exact ⟨rfl, by rw [h2]; rfl⟩
  · exact ⟨rfl, by rw [h3]; rfl⟩
  · exact ⟨by simp [WellFormed, isCommandCode, h1, h2, h3], rfl⟩

theorem wellFormed_hostWr_iff {rsv : BitVec 5} {reg : BitVec 10} (data : Half) :
    WellFormed (.hostWr rsv reg data) = true ↔ ¬(rsv = 0#5 ∧ reg = 0#10) := by
  simp [WellFormed, imp_iff_not_or]

/-- Settles O2, by the fields of the word: a read, a write to CMD, or another write. -/
theorem everyHostWordDecodesBack : Obligations.EveryHostWordDecodesBack := by
  unfold Obligations.EveryHostWordDecodesBack
  intro w
  have hfields := hostWord_fields w
  unfold decodeHost
  split_ifs with hw hcmd
  · obtain ⟨hwf, henc⟩ := decodeCommandWrite_spec (fieldData w)
    refine ⟨hwf, henc.trans ?_⟩
    rw [hw, hcmd.1, hcmd.2] at hfields
    rw [commandWord, dataHi_append_dataLo]
    exact congrArg _ hfields
  · rw [hw] at hfields
    exact ⟨(wellFormed_hostWr_iff _).2 hcmd, congrArg _ hfields⟩
  · rw [Bool.eq_false_iff.2 hw] at hfields
    exact ⟨rfl, congrArg _ hfields⟩

/-! ## Bytes of the wire (30_encoding R98, R102) -/

/-- A byte that decodes is the encoding of what it decodes to. -/
theorem encode_of_decodeWire {b : Byte} {i : Instr} (h : decodeWire b = .ok i) : encode i = .wire8 b := by
  unfold decodeWire decodeRequest decodeReceived at h
  split_ifs at h with h1 h2 h3 h4 h5 <;> cases h <;> subst b <;> rfl

/-- Settles O1, row by row: each field of the encoding is the operand it was made from. -/
theorem encodeThenDecodeReturnsInstr : Obligations.EncodeThenDecodeReturnsInstr := by
  unfold Obligations.EncodeThenDecodeReturnsInstr
  intro i hwf
  cases i with
  | hostRd rsv reg data => exact congrArg _ (decodeHost_read rsv reg data)
  | hostWr rsv reg data => exact congrArg _ (decodeHost_write data ((wellFormed_hostWr_iff data).1 hwf))
  | crcRun hi | send hi | recv hi =>
    exact congrArg _ ((decodeHost_commandWord hi _).trans (by simp [decodeCommandWrite]))
  | cmdIllegal hi code =>
    have hcode : isCommandCode code = false := by simpa [WellFormed] using hwf
    exact congrArg _ ((decodeHost_commandWord hi code).trans (decodeCommandWrite_illegal hi hcode))
  | response | readObject | writeObject | tokenO | tokenF => rfl

/-- Settles O3: a row's byte decodes to that row, and no other byte decodes. -/
theorem wireByteDecodesExactlyItsRow : Obligations.WireByteDecodesExactlyItsRow := by
  unfold Obligations.WireByteDecodesExactlyItsRow
  refine fun b i => ⟨encode_of_decodeWire, fun h => ?_⟩
  have hwf : WellFormed i = true := by
    cases i with
    | response | readObject | writeObject | tokenO | tokenF => rfl
    | _ => cases h
  rw [← h]
  exact encodeThenDecodeReturnsInstr i hwf

/-- Settles O4: the words of R110, each decoded. -/
theorem sampleWordsDecode : Obligations.SampleWordsDecode := by
  unfold Obligations.SampleWordsDecode
  decide

/-! ## The rows of a write to CMD (30_encoding R93 to R95, 44_host_access R217) -/

/-- Settles O29: the four rows of a write to CMD are that write. -/
theorem writeToCmdIsItsCommandRow : Obligations.WriteToCmdIsItsCommandRow := by
  unfold Obligations.WriteToCmdIsItsCommandRow
  intro v s
  exact (exec_decodeCommandWrite v s).symm

section
variable (hi : Byte) {s : State} (hidle : s.busy = false)
include hidle

theorem exec_crcRun_idle : exec (.crcRun hi) s = .next { s with block := s.block.startCommand 0x01#8 } :=
  congrArg _ (commandWrite_idle hi _ hidle)

theorem exec_send_idle : exec (.send hi) s = .next { s with block := s.block.startCommand 0x02#8 } :=
  congrArg _ (commandWrite_idle hi _ hidle)

theorem exec_recv_idle : exec (.recv hi) s = .next { s with block := s.block.startCommand 0x03#8 } :=
  congrArg _ (commandWrite_idle hi _ hidle)

end

/-- Settles O30: the start of an idle block's command, code by code. -/
theorem legalCommandStarts : Obligations.LegalCommandStarts := by
  unfold Obligations.LegalCommandStarts
  intro hi s hidle i code c first hrow
  simp only [List.mem_cons, Prod.mk.injEq, List.not_mem_nil, or_false] at hrow
  rcases hrow with ⟨rfl, rfl, rfl, rfl⟩ | ⟨rfl, rfl, rfl, rfl⟩ | ⟨rfl, rfl, rfl, rfl⟩
  · exact ⟨exec_crcRun_idle hi hidle, rfl⟩
  · exact ⟨exec_send_idle hi hidle, rfl⟩
  · exact ⟨exec_recv_idle hi hidle, rfl⟩

theorem commandOfCode_illegal {code : Byte} (h : code = 0x00#8 ∨ 0x04 ≤ code.toNat) : commandOfCode code = none := by
  have hne (c : Byte) (h0 : c ≠ 0x00#8) (h4 : c.toNat < 0x04) : code ≠ c := by
    rintro rfl
    exact h.elim h0 (by omega)
  simp only [commandOfCode, hne 0x01#8 (by decide) (by decide), hne 0x02#8 (by decide) (by decide),
    hne 0x03#8 (by decide) (by decide), if_false]

/-- Settles O31: an illegal code names no command, so its write finishes at once. -/
theorem illegalCommandFinishesAtOnce : Obligations.IllegalCommandFinishesAtOnce := by
  unfold Obligations.IllegalCommandFinishesAtOnce
  intro hi code s hidle hcode
  refine congrArg _ ((commandWrite_idle hi code hidle).trans ?_)
  simp only [Block.startCommand, commandOfCode_illegal hcode]
  rfl

end Sys2Proof.Machine
end

section
/-!
PROOFS. The receiving steps of SEND and the checksum step of RECV, by how their transaction ends (41_frame_send R143, R147,
42_frame_recv R176).
-/

namespace Sys2Proof.Machine

/-! ## A receive step, by how its transaction ends -/

section
variable {n : Nat} {s t : State}

theorem receive_of_timeout (next : List Byte → State → State) (h : rxGroup n s = (.timeout, t)) :
    receive n next s = t.finish .timeout := by
  simp only [receive, h]

theorem receive_of_bytes (next : List Byte → State → State) {bs : List Byte} (h : rxGroup n s = (.bytes bs, t)) :
    receive n next s = next bs t := by
  simp only [receive, h]

theorem receiveByte_of_timeout (next : Byte → State → State) (h : rxGroup 1 s = (.timeout, t)) :
    receiveByte next s = t.finish .timeout :=
  receive_of_timeout _ h

theorem receiveByte_of_byte (next : Byte → State → State) {b : Byte} (h : rxGroup 1 s = (.bytes [b], t)) :
    receiveByte next s = next b t :=
  receive_of_bytes _ h

end

/-! ## The step of each state is its function (10_state R42) -/

section
variable {s : State}

theorem blockStep_s1 (hst : s.block.st = .s1) : blockStep s = stepS1 s := by simp only [blockStep, hst]
theorem blockStep_s2 (hst : s.block.st = .s2) : blockStep s = stepS2 s := by simp only [blockStep, hst]
theorem blockStep_s3 (hst : s.block.st = .s3) : blockStep s = stepS3 s := by simp only [blockStep, hst]
theorem blockStep_s4 (hst : s.block.st = .s4) : blockStep s = stepS4 s := by simp only [blockStep, hst]
theorem blockStep_s5 (hst : s.block.st = .s5) : blockStep s = stepS5 s := by simp only [blockStep, hst]
theorem blockStep_s6 (hst : s.block.st = .s6) : blockStep s = stepS6 s := by simp only [blockStep, hst]
theorem blockStep_r1 (hst : s.block.st = .r1) : blockStep s = stepR1 s := by simp only [blockStep, hst]
theorem blockStep_r2 (hst : s.block.st = .r2) : blockStep s = stepR2 s := by simp only [blockStep, hst]
theorem blockStep_r3 (hst : s.block.st = .r3) : blockStep s = stepR3 s := by simp only [blockStep, hst]
theorem blockStep_r4 (hst : s.block.st = .r4) : blockStep s = stepR4 s := by simp only [blockStep, hst]
theorem blockStep_r5 (hst : s.block.st = .r5) : blockStep s = stepR5 s := by simp only [blockStep, hst]
theorem blockStep_r6 (hst : s.block.st = .r6) : blockStep s = stepR6 s := by simp only [blockStep, hst]

end

/-- Settles O38: S2 tests the ready-ack for 'F', then for 'O'. -/
theorem sendStep2TestsReadyAck : Obligations.SendStep2TestsReadyAck := by
  unfold Obligations.SendStep2TestsReadyAck
  intro s t hst
  rw [blockStep_s2 hst]
  refine ⟨receiveByte_of_timeout _, fun a h => ?_⟩
  rw [stepS2, receiveByte_of_byte _ h]
  refine ⟨fun hF => if_pos hF, fun hF hO => (if_neg hF).trans (if_pos hO), ?_⟩
  rintro rfl
  rfl

/-- Settles O40: S6 tests the end-ack for 'O'. -/
theorem sendStep6TestsEndAck : Obligations.SendStep6TestsEndAck := by
  unfold Obligations.SendStep6TestsEndAck
  intro s t hst
  rw [blockStep_s6 hst]
  refine ⟨receiveByte_of_timeout _, fun e h => ?_⟩
  rw [stepS6, receiveByte_of_byte _ h]
  exact ⟨fun hO => if_pos hO, fun hO => if_neg (not_not.2 hO)⟩

/-- Settles O44: R5 takes the two bytes and computes over the payload, which its transaction leaves. -/
theorem recvStep5TakesChecksum : Obligations.RecvStep5TakesChecksum := by
  unfold Obligations.RecvStep5TakesChecksum
  intro s t hst
  rw [blockStep_r5 hst]
  refine ⟨receive_of_timeout _, fun c0 c1 h => ?_⟩
  rw [stepR5, receive_of_bytes _ h, ← (rxGroup_bytes h).2, ← le16_eq_or_shift]
  rfl

end Sys2Proof.Machine
end

section
/-!
PROOFS. Whole commands where every transaction succeeds: SEND transmits the frame (41_frame_send R148, R149), RECV of a good
frame stores its payload (42_frame_recv R178, R179).
-/

namespace Sys2Proof.Machine

/-! ## Runs of block steps, seen from the block and the link -/

/-- From the block `b` and the link `l`, `n` block steps lead to `b'` and `l'`, whatever the rest of the machine holds. -/
def Leads (n : Nat) (b : Block) (l : Link) (b' : Block) (l' : Link) : Prop :=
  ∀ s : State, s.block = b → s.link = l → (blockStep^[n] s).block = b' ∧ (blockStep^[n] s).link = l'

theorem Leads.trans {n m : Nat} {b b' b'' : Block} {l l' l'' : Link} (h : Leads n b l b' l')
    (h' : Leads m b' l' b'' l'') : Leads (m + n) b l b'' l'' := by
  intro s hb hl
  obtain ⟨hb', hl'⟩ := h s hb hl
  rw [Function.iterate_add_apply]
  exact h' _ hb' hl'

/-- The payload depends on BUF, the reset count and NBYTES alone. -/
theorem payload_congr {b b' : Block} (hbuf : b'.buf = b.buf) (hepoch : b'.epoch = b.epoch)
    (hn : b'.nbytes = b.nbytes) : b'.payload = b.payload := by
  rw [Block.payload, Block.payload, hn, memRead_congr hbuf hepoch]

/-! ## Each step with its transaction accepted, or answered with bytes that the transport holds -/

section
variable {b : Block} {tx rx : List Byte} {txs : List TxAnswer} {rxs : List RxAnswer}

theorem afterTx_link {s : State} {un : Bool} {answers : List TxAnswer} (hl : s.link = ⟨tx, rx, answers, rxs, un⟩)
    (bs : List Byte) (d : Nat) : (s.afterTx bs txs d).link = ⟨tx ++ bs, rx, txs, rxs, un⟩ := by
  simp only [State.afterTx, hl]

theorem afterRx_link {s : State} {un : Bool} {held : List Byte} {answers : List RxAnswer}
    (hl : s.link = ⟨tx, held, txs, answers, un⟩) (d : Nat) : (s.afterRx rx rxs d).link = ⟨tx, rx, txs, rxs, un⟩ := by
  simp only [State.afterRx, hl]

theorem leads_s1 (hst : b.st = .s1) (hlen : lengthOk b.nbytes.toNat = true) :
    Leads 1 b ⟨tx, rx, .accepted :: txs, rxs, false⟩ { b with st := .s2 } ⟨tx ++ [b.opc], rx, txs, rxs, false⟩ := by
  rintro s rfl hl
  rw [Function.iterate_one, blockStep_s1 hst, stepS1, if_pos hlen, transmit_accepted _ _ _ (by rw [hl]) (by rw [hl])]
  exact ⟨rfl, afterTx_link hl _ s.draws⟩

theorem leads_s2 (hst : b.st = .s2) :
    Leads 1 b ⟨tx, Config.tokenO :: rx, txs, .bytes :: rxs, false⟩ { b with st := .s3 } ⟨tx, rx, txs, rxs, false⟩ := by
  rintro s rfl hl
  rw [Function.iterate_one, blockStep_s2 hst, stepS2, receiveByte_held _ (by rw [hl]) (by rw [hl]) (by rw [hl])]
  exact ⟨rfl, afterRx_link hl (s.draws + 1)⟩

theorem leads_s3 (hst : b.st = .s3) {l : Byte} (hlenf : l = lenField b.nbytes.toNat) :
    Leads 1 b ⟨tx, rx, .accepted :: txs, rxs, false⟩ { b with lenf := l, lenfReg := l, st := .s4 }
      ⟨tx ++ [l], rx, txs, rxs, false⟩ := by
  rintro s rfl hl
  rw [Function.iterate_one, blockStep_s3 hst, stepS3, ← hlenf, transmit_accepted _ _ _ (by rw [hl]) (by rw [hl])]
  exact ⟨rfl, afterTx_link hl _ s.draws⟩

theorem leads_s4 (hst : b.st = .s4) {p : List Byte} (hp : b.payload = p) :
    Leads 1 b ⟨tx, rx, .accepted :: txs, rxs, false⟩ { b with st := .s5 } ⟨tx ++ p, rx, txs, rxs, false⟩ := by
  rintro s rfl hl
  rw [Function.iterate_one, blockStep_s4 hst, stepS4, hp, transmit_accepted _ _ _ (by rw [hl]) (by rw [hl])]
  exact ⟨rfl, afterTx_link hl _ s.draws⟩

theorem leads_s5 (hst : b.st = .s5) {p : List Byte} {c : Half} (hp : b.payload = p) (hc : c = fcs b.opc b.lenf p) :
    Leads 1 b ⟨tx, rx, .accepted :: txs, rxs, false⟩ { b with crc := c, fcsAcc := c, st := .s6 }
      ⟨tx ++ [lo8 c, hi8 c], rx, txs, rxs, false⟩ := by
  rintro s rfl hl
  rw [Function.iterate_one, blockStep_s5 hst, stepS5, hp, ← hc, transmit_accepted _ _ _ (by rw [hl]) (by rw [hl])]
  exact ⟨rfl, afterTx_link hl _ s.draws⟩

theorem leads_s6 (hst : b.st = .s6) :
    Leads 1 b ⟨tx, Config.tokenO :: rx, txs, .bytes :: rxs, false⟩ (b.finish .ok) ⟨tx, rx, txs, rxs, false⟩ := by
  rintro s rfl hl
  rw [Function.iterate_one, blockStep_s6 hst, stepS6, receiveByte_held _ (by rw [hl]) (by rw [hl]) (by rw [hl])]
  exact ⟨rfl, afterRx_link hl (s.draws + 1)⟩

theorem leads_r1 (hst : b.st = .r1) (hlen : lengthOk b.nbytes.toNat = true) :
    Leads 1 b ⟨tx, Config.responseOpcode :: rx, txs, .bytes :: rxs, false⟩ { b with st := .r2 }
      ⟨tx, rx, txs, rxs, false⟩ := by
  rintro s rfl hl
  rw [Function.iterate_one, blockStep_r1 hst, stepR1, if_pos hlen,
    receiveByte_held _ (by rw [hl]) (by rw [hl]) (by rw [hl])]
  exact ⟨rfl, afterRx_link hl (s.draws + 1)⟩

theorem leads_r2 (hst : b.st = .r2) :
    Leads 1 b ⟨tx, rx, .accepted :: txs, rxs, false⟩ { b with st := .r3 }
      ⟨tx ++ [Config.tokenO], rx, txs, rxs, false⟩ := by
  rintro s rfl hl
  rw [Function.iterate_one, blockStep_r2 hst, stepR2, transmit_accepted _ _ _ (by rw [hl]) (by rw [hl])]
  exact ⟨rfl, afterTx_link hl _ s.draws⟩

theorem leads_r3 (hst : b.st = .r3) {l : Byte} (hlenf : l = lenField b.nbytes.toNat) :
    Leads 1 b ⟨tx, l :: rx, txs, .bytes :: rxs, false⟩ { b with lenf := l, lenfReg := l, st := .r4 }
      ⟨tx, rx, txs, rxs, false⟩ := by
  rintro s rfl hl
  rw [Function.iterate_one, blockStep_r3 hst, stepR3, receiveByte_held _ (by rw [hl]) (by rw [hl]) (by rw [hl])]
  simp only [state_withLenf_block, afterRx_block, ← hlenf, ne_eq, not_true_eq_false, if_false]
  exact ⟨rfl, afterRx_link hl (s.draws + 1)⟩

theorem leads_r4 (hst : b.st = .r4) {p : List Byte} (hp : p.length = b.nbytes.toNat) :
    Leads 1 b ⟨tx, p ++ rx, txs, .bytes :: rxs, false⟩ { b with buf := b.buf.writeBytes 0 p, st := .r5 }
      ⟨tx, rx, txs, rxs, false⟩ := by
  rintro s rfl hl
  have htake : s.link.rxStream.take s.block.nbytes.toNat = p := by simp [hl, ← hp]
  have hdrop : s.link.rxStream.drop s.block.nbytes.toNat = rx := by simp [hl, ← hp]
  have hgroup := rxGroup_held (n := s.block.nbytes.toNat) (s := s) (rest := rxs) (by rw [hl]) (by rw [hl])
    (by simp [hl, ← hp])
  rw [htake, hdrop] at hgroup
  rw [Function.iterate_one, blockStep_r4_bytes hst hgroup]
  exact ⟨rfl, afterRx_link hl (s.draws + 1)⟩

theorem leads_r5 (hst : b.st = .r5) {p : List Byte} {c0 c1 : Byte} {received c : Half}
    (hreceived : le16 c0 c1 = received) (hp : b.payload = p) (hc : c = fcs Config.responseOpcode b.lenf p) :
    Leads 1 b ⟨tx, c0 :: c1 :: rx, txs, .bytes :: rxs, false⟩
      { b with rxcrc := received, crc := c, fcsAcc := c, st := .r6 } ⟨tx, rx, txs, rxs, false⟩ := by
  rintro s rfl hl
  rw [Function.iterate_one, blockStep_r5 hst, stepR5, receive_held _ (by rw [hl]) (by rw [hl]) (by simp [hl])]
  simp only [afterRx_block, hl, hp, ← hc, ← hreceived]
  exact ⟨rfl, afterRx_link hl (s.draws + 1)⟩

theorem leads_r6_ok (hst : b.st = .r6) (hcrc : b.rxcrc = b.crc) :
    Leads 1 b ⟨tx, rx, .accepted :: txs, rxs, false⟩ (b.finish .ok) ⟨tx ++ [Config.tokenO], rx, txs, rxs, false⟩ := by
  rintro s rfl hl
  rw [Function.iterate_one, blockStep_r6 hst, stepR6, if_neg (not_not.2 hcrc),
    transmit_accepted _ _ _ (by rw [hl]) (by rw [hl])]
  exact ⟨rfl, afterTx_link hl _ s.draws⟩

/-- SEND from S1 to its end. -/
theorem leads_send (hst : b.st = .s1) (hlen : lengthOk b.nbytes.toNat = true) {l : Byte} {c : Half}
    (hl : l = lenField b.nbytes.toNat) (hc : c = fcs b.opc l b.payload) :
    Leads 6 b
      ⟨tx, Config.tokenO :: Config.tokenO :: rx, .accepted :: .accepted :: .accepted :: .accepted :: txs,
        .bytes :: .bytes :: rxs, false⟩
      (Block.finish .ok { b with lenf := l, lenfReg := l, crc := c, fcsAcc := c })
      ⟨tx ++ frameBytes b.opc b.payload, rx, txs, rxs, false⟩ := by
  have hframe : tx ++ frameBytes b.opc b.payload = tx ++ [b.opc] ++ [l] ++ b.payload ++ [lo8 c, hi8 c] := by
    simp [frameBytes, ← hl, ← hc]
  rw [hframe]
  have hpayload {b' : Block} (hbuf : b'.buf = b.buf) (hepoch : b'.epoch = b.epoch) (hn : b'.nbytes = b.nbytes) :
      b'.payload = b.payload := payload_congr hbuf hepoch hn
  exact (leads_s1 hst hlen).trans <|
    (leads_s2 (b := { b with st := .s2 }) rfl).trans <|
    (leads_s3 (b := { b with st := .s3 }) rfl hl).trans <|
    (leads_s4 (b := { b with lenf := l, lenfReg := l, st := .s4 }) rfl (hpayload rfl rfl rfl)).trans <|
    (leads_s5 (b := { b with lenf := l, lenfReg := l, st := .s5 }) rfl (hpayload rfl rfl rfl) hc).trans <|
    leads_s6 (b := { b with lenf := l, lenfReg := l, crc := c, fcsAcc := c, st := .s6 }) rfl

/-- RECV of a good frame from R1 to its end. -/
theorem leads_recv (hst : b.st = .r1) {p : List Byte} (hp : p.length = b.nbytes.toNat) (hlen : lengthOk p.length = true)
    {l : Byte} {c : Half} (hl : l = lenField p.length) (hc : c = fcs Config.responseOpcode l p) :
    Leads 6 b
      ⟨tx, frameBytes Config.responseOpcode p ++ rx, .accepted :: .accepted :: txs,
        .bytes :: .bytes :: .bytes :: .bytes :: rxs, false⟩
      (Block.finish .ok
        { b with lenf := l, lenfReg := l, buf := b.buf.writeBytes 0 p, rxcrc := c, crc := c, fcsAcc := c })
      ⟨tx ++ [Config.tokenO, Config.tokenO], rx, txs, rxs, false⟩ := by
  have hframe : frameBytes Config.responseOpcode p ++ rx =
      Config.responseOpcode :: l :: (p ++ (lo8 c :: hi8 c :: rx)) := by
    simp [frameBytes, ← hl, ← hc]
  have htokens : tx ++ [Config.tokenO, Config.tokenO] = tx ++ [Config.tokenO] ++ [Config.tokenO] := by simp
  rw [hp] at hl hlen
  have hstored : ({ b with buf := b.buf.writeBytes 0 p } : Block).payload = p := by
    have h := memRead_writeBytes b p (hp ▸ ((lengthOk_iff _).1 hlen).2.2)
    rwa [hp] at h
  rw [hframe, htokens]
  exact (leads_r1 hst hlen).trans <|
    (leads_r2 (b := { b with st := .r2 }) rfl).trans <|
    (leads_r3 (b := { b with st := .r3 }) rfl hl).trans <|
    (leads_r4 (b := { b with lenf := l, lenfReg := l, st := .r4 }) rfl hp).trans <|
    (leads_r5 (b := { b with lenf := l, lenfReg := l, buf := b.buf.writeBytes 0 p, st := .r5 }) rfl (le16_lo8_hi8 c)
      ((payload_congr rfl rfl rfl).trans hstored) hc).trans <|
    leads_r6_ok (b := { b with
      lenf := l, lenfReg := l, buf := b.buf.writeBytes 0 p, rxcrc := c, crc := c, fcsAcc := c, st := .r6 }) rfl rfl

end

/-! ## The whole commands -/

theorem iterate_blockStep_ctl (n : Nat) (s : State) : (blockStep^[n] s).ctl = s.ctl := by
  induction n with
  | zero => rfl
  | succ n ih => rw [Function.iterate_succ_apply', (blockStep_frame _).2.1, ih]

/-- Settles O54: SEND starts in S1, and its six steps are those of `leads_send`. -/
theorem sendTransmitsWholeFrame : Obligations.SendTransmitsWholeFrame := by
  unfold Obligations.SendTransmitsWholeFrame
  intro s hi txs rxs rest hidle hanswered heven hmin hmax htxs hrxs hstream
  have hlink : s.link = ⟨s.link.txStream, 0x4F#8 :: 0x4F#8 :: rest,
      .accepted :: .accepted :: .accepted :: .accepted :: txs, .bytes :: .bytes :: rxs, false⟩ := by
    rw [← hstream, ← htxs, ← hrxs, ← hanswered]
  have hpayload : (s.block.startCommand 0x02#8).payload = s.block.payload := payload_congr rfl rfl rfl
  obtain ⟨hblock, hlink'⟩ := leads_send (b := s.block.startCommand 0x02#8) rfl ((lengthOk_iff _).2 ⟨heven, hmin, hmax⟩)
    rfl rfl { s with block := s.block.startCommand 0x02#8 } rfl hlink
  refine ⟨_, _, exec_send_idle hi hidle, rfl, (busy_eq_false_iff _).2 (by rw [hblock]; rfl), ?_⟩
  rw [hblock, hlink', iterate_blockStep_ctl, hpayload]
  exact ⟨rfl, rfl, rfl, rfl, rfl, rfl, rfl, rfl, rfl, rfl, rfl, rfl, rfl, rfl⟩

/-- Settles O56: RECV starts in R1, and its six steps are those of `leads_recv`. -/
theorem recvReturnsPayloadOfGoodFrame : Obligations.RecvReturnsPayloadOfGoodFrame := by
  unfold Obligations.RecvReturnsPayloadOfGoodFrame
  intro s hi p rest txs rxs hidle hanswered heven hmin hmax hn htxs hrxs hstream
  have hlink : s.link = ⟨s.link.txStream, frameBytes 0x00#8 p ++ rest, .accepted :: .accepted :: txs,
      .bytes :: .bytes :: .bytes :: .bytes :: rxs, false⟩ := by
    rw [← hstream, ← htxs, ← hrxs, ← hanswered]
  obtain ⟨hblock, hlink'⟩ := leads_recv (b := s.block.startCommand 0x03#8) rfl hn.symm
    ((lengthOk_iff _).2 ⟨heven, hmin, hmax⟩) rfl rfl { s with block := s.block.startCommand 0x03#8 } rfl hlink
  have hstored := memRead_writeBytes s.block p hmax
  rw [← hn] at hstored
  refine ⟨_, _, exec_recv_idle hi hidle, rfl, (busy_eq_false_iff _).2 (by rw [hblock]; rfl), ?_⟩
  rw [hblock, hlink', iterate_blockStep_ctl]
  exact ⟨rfl, rfl, rfl, rfl, (payload_congr rfl rfl rfl).trans hstored, rfl, rfl, rfl, rfl, rfl, rfl, rfl, rfl,
    fun _ => readBuf_writeBytes_above s.block p, rfl⟩

end Sys2Proof.Machine
end

section
/-!
PROOFS. What RECV transmits under every environment (42_frame_recv R179, R181): the tokens sent so far are told by the state of
RECV, and once it has ended by its result.
-/

namespace Sys2Proof.Machine

/-- The token sequences with which RECV can end, by result (42_frame_recv R179). A failed write can have delivered any first
part of what RECV sends (20_memory R70). -/
def tokensAtEnd : ResultCode → List (List Byte)
  | .ok => [[Config.tokenO, Config.tokenO]]
  | .checksumMismatch => [[Config.tokenO, Config.tokenF]]
  | .lengthMismatch => [[Config.tokenO]]
  | .timeout => [[], [Config.tokenO]]
  | .badLength | .unexpectedOpcode => [[]]
  | .transportWrite => [[], [Config.tokenO], [Config.tokenO, Config.tokenF], [Config.tokenO, Config.tokenO]]
  | .deviceNotReady | .unexpectedAck | .deviceRejectedFrame | .illegalCommand => []

/-- The token sequences that a RECV in progress, or ended, can have sent: READY from R3 on. -/
def tokensSent (b : Block) : List (List Byte) :=
  match b.st with
  | .idle => tokensAtEnd b.result
  | .r1 | .r2 => [[]]
  | .r3 | .r4 | .r5 | .r6 => [[Config.tokenO]]
  | .c1 | .s1 | .s2 | .s3 | .s4 | .s5 | .s6 => []

/-- RECV has sent one of its token sequences behind `tx`. -/
def RecvSent (tx : List Byte) (s : State) : Prop :=
  ∃ sent, s.link.txStream = tx ++ sent ∧ sent ∈ tokensSent s.block

theorem RecvSent.intro {tx sent : List Byte} {s : State} (htx : s.link.txStream = tx ++ sent)
    (hsent : sent ∈ tokensSent s.block) : RecvSent tx s := ⟨sent, htx, hsent⟩

/-- A one-byte group of which a failed write has delivered a first part: nothing of it or all of it. -/
theorem take_singleton_cases (k : Nat) (v : Byte) : [v].take k = [] ∨ [v].take k = [v] := by
  cases k with
  | zero => exact .inl rfl
  | succ k => exact .inr (by simp)

/-! ## Each step of RECV -/

section
variable {tx : List Byte} {s : State}

theorem recvSent_r1 (hst : s.block.st = .r1) (htx : s.link.txStream = tx ++ []) : RecvSent tx (stepR1 s) := by
  rcases stepR1_cases s with ⟨-, h⟩ | ⟨-, ⟨k, a, d, h⟩ | ⟨v, a, d, -, ⟨-, h⟩ | ⟨-, h⟩⟩ | ⟨a, b, d, -, h⟩⟩ <;> rw [h]
  · exact .intro htx (by simp [tokensSent, tokensAtEnd])
  · exact .intro htx (by simp [tokensSent, tokensAtEnd])
  · exact .intro htx (by simp [tokensSent, tokensAtEnd])
  · exact .intro htx (by simp [tokensSent])
  · exact .intro htx (by simp [tokensSent, hst])

theorem recvSent_r2 (hst : s.block.st = .r2) (htx : s.link.txStream = tx ++ []) : RecvSent tx (stepR2 s) := by
  have hafter (sent : List Byte) : s.link.txStream ++ sent = tx ++ sent := by rw [htx, List.append_nil]
  rcases stepR2_cases s with ⟨a, d, h⟩ | ⟨k, a, d, h⟩ | ⟨a, b, d, -, h⟩ <;> rw [h]
  · exact .intro (hafter _) (by simp [tokensSent])
  · refine .intro (hafter _) ?_
    rcases take_singleton_cases k Config.tokenO with hk | hk <;> simp [tokensSent, tokensAtEnd, hk]
  · exact .intro htx (by simp [tokensSent, hst])

theorem recvSent_r3 (hst : s.block.st = .r3) (htx : s.link.txStream = tx ++ [Config.tokenO]) :
    RecvSent tx (stepR3 s) := by
  rcases stepR3_cases s with ⟨k, a, d, h⟩ | ⟨v, a, d, -, ⟨-, h⟩ | ⟨-, h⟩⟩ | ⟨a, b, d, -, h⟩ <;> rw [h]
  · exact .intro htx (by simp [tokensSent, tokensAtEnd])
  · exact .intro htx (by simp [tokensSent, tokensAtEnd])
  · exact .intro htx (by simp [tokensSent])
  · exact .intro htx (by simp [tokensSent, hst])

theorem recvSent_r4 (hst : s.block.st = .r4) (htx : s.link.txStream = tx ++ [Config.tokenO]) :
    RecvSent tx (stepR4 s) := by
  rcases stepR4_cases s with ⟨bs, a, d, -, -, h⟩ | ⟨k, a, d, e, h⟩ | ⟨a, b, d, -, h⟩ <;> rw [h]
  · exact .intro htx (by simp [tokensSent])
  · exact .intro htx (by simp [tokensSent, tokensAtEnd])
  · exact .intro htx (by simp [tokensSent, hst])

theorem recvSent_r5 (hst : s.block.st = .r5) (htx : s.link.txStream = tx ++ [Config.tokenO]) :
    RecvSent tx (stepR5 s) := by
  rcases stepR5_cases s with ⟨k, a, d, h⟩ | ⟨c0, c1, a, d, -, h⟩ | ⟨a, b, d, -, h⟩ <;> rw [h]
  · exact .intro htx (by simp [tokensSent, tokensAtEnd])
  · exact .intro htx (by simp [tokensSent])
  · exact .intro htx (by simp [tokensSent, hst])

theorem recvSent_r6 (hst : s.block.st = .r6) (htx : s.link.txStream = tx ++ [Config.tokenO]) :
    RecvSent tx (stepR6 s) := by
  have hafter (sent : List Byte) : s.link.txStream ++ sent = tx ++ (Config.tokenO :: sent) := by
    rw [htx, List.append_assoc]
    rfl
  rcases stepR6_cases s with
    ⟨-, ⟨a, d, h⟩ | ⟨k, a, d, h⟩⟩ | ⟨-, ⟨a, d, h⟩ | ⟨k, a, d, h⟩⟩ | ⟨a, b, d, -, h⟩ <;> rw [h]
  · exact .intro (hafter _) (by simp [tokensSent, tokensAtEnd])
  · refine .intro (hafter _) ?_
    rcases take_singleton_cases k Config.tokenF with hk | hk <;> simp [tokensSent, tokensAtEnd, hk]
  · exact .intro (hafter _) (by simp [tokensSent, tokensAtEnd])
  · refine .intro (hafter _) ?_
    rcases take_singleton_cases k Config.tokenO with hk | hk <;> simp [tokensSent, tokensAtEnd, hk]
  · exact .intro htx (by simp [tokensSent, hst])

theorem RecvSent.eq_of_singleton {sent : List Byte} (h : RecvSent tx s) (hone : tokensSent s.block = [sent]) :
    s.link.txStream = tx ++ sent := by
  obtain ⟨sent', htx, hsent⟩ := h
  rw [hone, List.mem_singleton] at hsent
  exact hsent ▸ htx

/-- A block step keeps the account of what RECV has sent. -/
theorem RecvSent.after_blockStep (h : RecvSent tx s) : RecvSent tx (blockStep s) := by
  cases hst : s.block.st with
  | idle => exact (blockStep_idle hst).symm ▸ h
  | c1 | s1 | s2 | s3 | s4 | s5 | s6 =>
    obtain ⟨sent, -, hsent⟩ := h
    simp [tokensSent, hst] at hsent
  | r1 => exact blockStep_r1 hst ▸ recvSent_r1 hst (h.eq_of_singleton (by simp [tokensSent, hst]))
  | r2 => exact blockStep_r2 hst ▸ recvSent_r2 hst (h.eq_of_singleton (by simp [tokensSent, hst]))
  | r3 => exact blockStep_r3 hst ▸ recvSent_r3 hst (h.eq_of_singleton (by simp [tokensSent, hst]))
  | r4 => exact blockStep_r4 hst ▸ recvSent_r4 hst (h.eq_of_singleton (by simp [tokensSent, hst]))
  | r5 => exact blockStep_r5 hst ▸ recvSent_r5 hst (h.eq_of_singleton (by simp [tokensSent, hst]))
  | r6 => exact blockStep_r6 hst ▸ recvSent_r6 hst (h.eq_of_singleton (by simp [tokensSent, hst]))

theorem RecvSent.iterate (h : RecvSent tx s) (n : Nat) : RecvSent tx (blockStep^[n] s) := by
  induction n with
  | zero => exact h
  | succ n ih => rw [Function.iterate_succ_apply']; exact ih.after_blockStep

end

/-! ## What RECV has sent, read off its state -/

section
variable {sent : List Byte}

/-- Every sequence RECV ends with is a first part of 'O' 'F' or of 'O' 'O'. -/
theorem tokensAtEnd_prefix {code : ResultCode} (h : sent ∈ tokensAtEnd code) :
    sent <+: [Config.tokenO, Config.tokenF] ∨ sent <+: [Config.tokenO, Config.tokenO] := by
  revert sent
  cases code <;> decide

/-- Each result names the sequence sent, TIMEOUT one of two; no other result but TRANSPORT_WRITE occurs. -/
theorem tokensAtEnd_named {code : ResultCode} (h : sent ∈ tokensAtEnd code) :
    code ∈ [ResultCode.ok, .unexpectedOpcode, .lengthMismatch, .checksumMismatch, .timeout, .transportWrite, .badLength] ∧
      (code = .badLength → sent = []) ∧ (code = .unexpectedOpcode → sent = []) ∧
      (code = .lengthMismatch → sent = [Config.tokenO]) ∧ (code = .timeout → sent = [] ∨ sent = [Config.tokenO]) ∧
      (code = .checksumMismatch → sent = [Config.tokenO, Config.tokenF]) ∧
      (code = .ok → sent = [Config.tokenO, Config.tokenO]) := by
  revert sent
  cases code <;> decide

/-- What RECV has sent before its end it could also end with. -/
theorem tokensSent_prefix {b : Block} (h : sent ∈ tokensSent b) :
    sent <+: [Config.tokenO, Config.tokenF] ∨ sent <+: [Config.tokenO, Config.tokenO] := by
  unfold tokensSent at h
  cases hst : b.st <;> rw [hst] at h
  case idle => exact tokensAtEnd_prefix h
  case r1 | r2 => exact tokensAtEnd_prefix (code := .badLength) h
  case r3 | r4 | r5 | r6 => exact tokensAtEnd_prefix (code := .lengthMismatch) h
  all_goals cases h

end

/-- Settles O58: the account holds at the start of RECV, every step keeps it, and at the end it names the result. -/
theorem recvTransmitsTokensByResult : Obligations.RecvTransmitsTokensByResult := by
  unfold Obligations.RecvTransmitsTokensByResult
  rintro s u t hi hidle - hexec rfl
  obtain rfl := Host.Outcome.next.inj ((exec_recv_idle hi hidle).symm.trans hexec)
  have hstart : RecvSent s.link.txStream { s with block := s.block.startCommand 0x03#8 } :=
    .intro (List.append_nil _).symm (List.mem_singleton.2 rfl)
  obtain ⟨sent, htx, hsent⟩ := hstart.iterate 6
  refine ⟨sent, htx, tokensSent_prefix hsent, fun hend => ?_⟩
  rw [tokensSent, (busy_eq_false_iff _).1 hend] at hsent
  exact tokensAtEnd_named hsent

end Sys2Proof.Machine
end

section
/-!
PROOFS. The client's requests (43_client_od_layer R202 to R205): the program a request queues, the accesses run to the start of
its SEND, and the controller's own operations.
-/

namespace Sys2Proof.Machine

/-! ## The words of the accesses (30_encoding R91, R108) -/

theorem setWidth16_eq_append (v : Byte) : v.setWidth 16 = 0x00#8 ++ v := by
  rw [append_eq_shift_xor]
  simp

theorem lo8_setWidth16 (v : Byte) : lo8 (v.setWidth 16) = v := by
  rw [setWidth16_eq_append, lo8_append]

/-- Settles O48: each access of the request's program is the word R108 gives it. -/
theorem requestsQueueTheirFrameSend : Obligations.RequestsQueueTheirFrameSend := by
  unfold Obligations.RequestsQueueTheirFrameSend
  intro s
  refine ⟨⟨_, ?_, rfl⟩, ⟨_, ?_, rfl⟩⟩
  · simp only [exec, execReadObject, issueRequest, readProgram, frameSend, readPayload, loadBuf, List.length_cons,
      List.length_nil, List.append_assoc, List.nil_append, ← setWidth16_eq_append]
    rfl
  · simp only [exec, execWriteObject, issueRequest, writeProgram, writePayload, frameSend, readPayload, le32Bytes,
      loadBuf, List.length_cons, List.length_nil, List.append_assoc, List.cons_append, List.nil_append, ← setWidth16_eq_append]
    rfl

/-! ## Runs -/

theorem run_succ {s t : State} (h : step s = .next t) (n : Nat) :
    Host.Core.run Sys2Proof.core (n + 1) s = Host.Core.run Sys2Proof.core n t := by
  have hcore : Sys2Proof.core.step s = .next t := h
  simp only [Host.Core.run, hcore]

/-- A run of one step. -/
theorem run_one {s t : State} (h : step s = .next t) : Host.Core.run Sys2Proof.core 1 s = .next t :=
  run_succ h 0

theorem run_add {s t : State} {n : Nat} (h : Host.Core.run Sys2Proof.core n s = .next t) (m : Nat) :
    Host.Core.run Sys2Proof.core (n + m) s = Host.Core.run Sys2Proof.core m t := by
  induction n generalizing s with
  | zero =>
    cases h
    rw [Nat.zero_add]
  | succ n ih =>
    cases hstep : step s with
    | next u =>
      rw [run_succ hstep] at h
      rw [Nat.add_right_comm, run_succ hstep, ih h]
    | fault r | refused r =>
      have hcore : Sys2Proof.core.step s = _ := hstep
      simp only [Host.Core.run, hcore] at h
      cases h

/-! ## The accesses of an idle controller's program -/

theorem step_idle {s : State} (hidle : s.busy = false) (hsched : s.sched = []) : step s = controllerMove s := by
  simp only [step_eq_move, move, hsched, freeMove, hidle, Bool.false_eq_true, if_false]

/-- A machine that goes on with its program on an idle block: the block and the program it has. -/
def State.withProgram (b : Block) (ops : List CtlOp) (s : State) : State := { s with block := b, ctl.program := ops }

section
variable {s : State} {b : Block} {ops : List CtlOp}

theorem step_withProgram_access (hidle : b.st = .idle) (hsched : s.sched = []) (w : Word) :
    step (s.withProgram b (.access w :: ops)) = exec (decodeHost w) (s.withProgram b ops) :=
  (step_idle (s := s.withProgram b (.access w :: ops)) ((busy_eq_false_iff _).2 hidle) hsched).trans
    (controllerMove_access rfl)

/-- `WR <reg>, <v>` on an idle block (30_encoding R108). -/
theorem step_opWr (hidle : b.st = .idle) (hsched : s.sched = []) {r : Reg} (hn : Reg.ofNumber r.number = some r)
    (hrw : r.isReadOnly = false) (hcmd : r ≠ .cmd) (v : Half) :
    step (s.withProgram b (opWr r v ++ ops)) = .next (s.withProgram (b.writeReg v r) ops) := by
  have hnumber : r.number ≠ 0#10 := fun h => hcmd (Option.some.inj (hn.symm.trans (h ▸ rfl)))
  refine (step_withProgram_access hidle hsched (hostWord 1#1 0#5 r.number v)).trans ?_
  rw [decodeHost_write v fun h => hnumber h.2]
  exact exec_hostWr_idle hn hrw v ((busy_eq_false_iff (s.withProgram b ops)).2 hidle)

theorem step_send (hidle : b.st = .idle) (hsched : s.sched = []) :
    step (s.withProgram b (accessOf (.send 0x00#8) ++ ops)) = .next (s.withProgram (b.startCommand 0x02#8) ops) :=
  (step_withProgram_access hidle hsched (commandWord 0x00#8 0x02#8)).trans
    (exec_send_idle _ ((busy_eq_false_iff (s.withProgram b ops)).2 hidle))

/-- `LOADBUF` writes its bytes into BUF, one access each (30_encoding R109). -/
theorem run_loadBuf (hsched : s.sched = []) (bs : List Byte) (i : Nat) (hfit : i + bs.length ≤ Config.bufBytes)
    (hidle : b.st = .idle) :
    Host.Core.run Sys2Proof.core bs.length (s.withProgram b (loadBuf i bs ++ ops)) =
      .next (s.withProgram { b with buf := b.buf.writeBytes i bs } ops) := by
  induction bs generalizing i b with
  | nil => rfl
  | cons v vs ih =>
    rw [List.length_cons] at hfit ⊢
    have hi : i < Config.bufBytes := by omega
    rw [loadBuf, List.append_assoc, run_succ (step_opWr hidle hsched (ofNumber_buf hi) rfl nofun _),
      ih (i + 1) (by omega) (by exact hidle), Block.writeReg, lo8_setWidth16]
    rfl

/-- `FRAME_SEND` loads its frame and starts SEND (30_encoding R109): opcode, NBYTES, BUF, CMD. -/
theorem run_frameSend (hsched : s.sched = []) (hidle : b.st = .idle) (opc : Byte) (bs : List Byte)
    (hfit : bs.length ≤ Config.bufBytes) :
    Host.Core.run Sys2Proof.core (bs.length + 3) (s.withProgram b (frameSend opc bs ++ ops)) =
      .next (s.withProgram
        (Block.startCommand 0x02#8
          { b with opc := opc, nbytes := BitVec.ofNat 16 bs.length, buf := b.buf.writeBytes 0 bs }) (.wait :: ops)) := by
  simp only [frameSend, List.append_assoc]
  rw [run_succ (step_opWr (r := .opc) hidle hsched rfl rfl nofun _),
    run_succ (step_opWr (r := .nbytes) (by exact hidle) hsched rfl rfl nofun _),
    run_add (run_loadBuf hsched bs 0 (by omega) (by exact hidle)), run_one (step_send (by exact hidle) hsched)]
  simp only [Block.writeReg, lo8_setWidth16]
  rfl

end

/-! ## A request, from its opcode to the start of its SEND (43_client_od_layer R202, R204) -/

theorem eq_withProgram {s : State} {ops : List CtlOp} (h : s.ctl.program = ops) : s = s.withProgram s.block ops := by
  subst h
  rfl

/-- The payload that FRAME_SEND loads is the one its SEND reads. -/
theorem payload_loaded (b : Block) {bs : List Byte} (hfit : bs.length ≤ Config.bufBytes) :
    ({ b with nbytes := BitVec.ofNat 16 bs.length, buf := b.buf.writeBytes 0 bs } : Block).payload = bs := by
  have hn : (BitVec.ofNat 16 bs.length).toNat = bs.length := by
    unfold Config.bufBytes at hfit
    rw [BitVec.toNat_ofNat, Nat.mod_eq_of_lt (by omega)]
  simp only [Block.payload, hn]
  exact memRead_writeBytes { b with nbytes := BitVec.ofNat 16 bs.length } bs hfit

/-- A request placed on an idle machine, whose program begins with FRAME_SEND. -/
theorem run_placed_request {s : State} (hidle : s.busy = false) (hsched : s.sched = []) {w : Nat} {i : Instr} {opc : Byte}
    {bs : List Byte} {rest : List CtlOp} (hdecode : decodeTableWord 8 w = some i)
    (hexec : exec i s = .next (issueRequest (frameSend opc bs ++ rest) s)) (hfit : bs.length ≤ Config.bufBytes) :
    ∃ t : State, Host.Core.run Sys2Proof.core (bs.length + 3 + 1) (s.withFetchWord 8 w) = .next t ∧
      t.block.opc = opc ∧ t.block.nbytes = BitVec.ofNat 16 bs.length ∧ t.block.st = .s1 ∧ t.block.cur = .send ∧
      t.block.payload = bs ∧ (∀ i, bs.length ≤ i → t.block.readBuf i = s.block.readBuf i) ∧
      t.link = s.link := by
  have hstep : step (s.withFetchWord 8 w) = .next (issueRequest (frameSend opc bs ++ rest) s) :=
    (placedWordIsRunNext s 8 w i hdecode).trans hexec
  have hqueued : issueRequest (frameSend opc bs ++ rest) s =
      (issueRequest (frameSend opc bs ++ rest) s).withProgram s.block (frameSend opc bs ++ (rest ++ s.ctl.program)) :=
    eq_withProgram (List.append_assoc (frameSend opc bs) rest s.ctl.program)
  have hrun := run_frameSend (ops := rest ++ s.ctl.program) (s := issueRequest (frameSend opc bs ++ rest) s) hsched
    ((busy_eq_false_iff s).1 hidle) opc bs hfit
  rw [← hqueued, ← run_succ hstep] at hrun
  exact ⟨_, hrun, rfl, rfl, rfl, rfl, (payload_congr rfl rfl rfl).trans (payload_loaded s.block hfit),
    fun _ => readBuf_writeBytes_above s.block bs, rfl⟩

/-- Settles O49: both requests are a placed FRAME_SEND, of four bytes and of eight. -/
theorem requestsLoadFrameAndStartSend : Obligations.RequestsLoadFrameAndStartSend := by
  unfold Obligations.RequestsLoadFrameAndStartSend
  intro s hidle hsched
  exact ⟨run_placed_request hidle hsched (bs := readPayload s.ctl.client) (i := .readObject) rfl rfl
      (by simp [readPayload, Config.bufBytes]),
    run_placed_request hidle hsched (bs := writePayload s.ctl.client) (i := .writeObject) rfl rfl
      (by simp [writePayload, readPayload, le32Bytes, Config.bufBytes])⟩

/-! ## The controller's own operations (30_encoding R109, 43_client_od_layer R203, R205) -/

/-- WAIT reads STATUS, and stays exactly while the block is busy. -/
theorem doWait_eq (again : List CtlOp) (s : State) :
    doWait again s =
      { s with
        ctl.program := if s.busy then again else s.ctl.program
        ctl.data := s.block.statusByte.setWidth 16 } := by
  have hbit : (s.block.readReg .status).getLsbD 0 = s.busy := by
    simpa [Block.readReg, State.busy] using statusByte_bit s.block 0
  simp only [doWait, hostRead_exact (r := .status) (s := s) (.inr rfl), hbit]
  split <;> rfl

/-- RESULT reads zero for OK alone (60_exceptions R236). -/
theorem toByte_setWidth_eq_zero_iff (c : ResultCode) : c.toByte.setWidth 16 = 0x0000#16 ↔ c = .ok := by
  cases c <;> decide

theorem doCheckResult_ok {s : State} (hidle : s.busy = false) (hok : s.block.result = .ok) :
    doCheckResult s = { s with ctl.data := 0x0000#16 } := by
  simp only [doCheckResult, hostRead_exact (r := .result) (s := s) (.inl hidle), Block.readReg, hok]
  rfl

theorem doCheckResult_failed {s : State} (hidle : s.busy = false) (hfail : s.block.result ≠ .ok) :
    doCheckResult s =
      { s with
        ctl.program := dropRequest s.ctl.program
        ctl.data := s.block.result.toByte.setWidth 16
        ctl.client.outcome := some (.failed s.block.result.toByte) } := by
  have hvalue : ¬s.block.result.toByte.setWidth 16 = 0x0000#16 := fun h => hfail ((toByte_setWidth_eq_zero_iff _).1 h)
  simp only [doCheckResult, hostRead_exact (r := .result) (s := s) (.inl hidle), Block.readReg, if_neg hvalue,
    lo8_setWidth16]

/-- A failed request's program is dropped up to its end, and that with it (log entry 19). -/
theorem dropRequest_append {rest later : List CtlOp} {last : CtlOp}
    (hrest : ∀ op ∈ rest, op ≠ .endRead ∧ op ≠ .endWrite) (hlast : last = .endRead ∨ last = .endWrite) :
    dropRequest (rest ++ last :: later) = later := by
  have hskip : ∀ op ∈ rest, (!op.isEnd) = true := fun op hop => by
    obtain ⟨hread, hwrite⟩ := hrest op hop
    cases op with
    | endRead => exact absurd rfl hread
    | endWrite => exact absurd rfl hwrite
    | _ => rfl
  rw [dropRequest, List.dropWhile_append_of_pos hskip]
  rcases hlast with rfl | rfl <;> rfl

/-- A read of BUF[i] of an idle block is kept in the response. -/
theorem doCollect_idle {i : Nat} {s : State} (hidle : s.busy = false) (hi : i < Config.bufBytes) :
    doCollect i s =
      { s with
        ctl.data := (s.block.readBuf i).setWidth 16
        ctl.client.bytes := s.ctl.client.bytes ++ [s.block.readBuf i] } := by
  simp only [doCollect, ofNumber_buf hi, hostRead_exact (r := .buf i) (s := s) (.inl hidle), Block.readReg,
    lo8_setWidth16]

/-- Settles O50: the scheduled controller takes the operation off its program and performs it. -/
theorem controllerOperationsStep : Obligations.ControllerOperationsStep := by
  unfold Obligations.ControllerOperationsStep
  intro s evs hs
  have hstep : step s = controllerMove { s with sched := evs } := step_scheduled hs
  refine ⟨fun ops hp => ?_, fun ops hp hidle => ⟨fun hok => ?_, ?_⟩, fun i ops hp hidle hi => ?_, fun ops hp => ?_,
    fun ops hp => ?_⟩
  · simp only [hstep, controllerMove, hp, doWait_eq]
    rfl
  · simp only [hstep, controllerMove, hp]
    exact congrArg _ (doCheckResult_ok (s := { s with sched := evs, ctl.program := ops }) hidle hok)
  · rintro hfail rest later last rfl hrest hlast
    simp only [hstep, controllerMove, hp]
    rw [doCheckResult_failed (by exact hidle) (by exact hfail)]
    simp only [dropRequest_append hrest hlast]
  · simp only [hstep, controllerMove, hp]
    exact congrArg _ (doCollect_idle (s := { s with sched := evs, ctl.program := ops }) hidle hi)
  · simp only [hstep, controllerMove, hp]
  · simp only [hstep, controllerMove, hp]

end Sys2Proof.Machine
end

section
/-!
PROOFS. WAIT ends if every transaction of the command is answered, and does not while one never is (30_encoding R109,
44_host_access R221, 70_reset R280, R281).
-/

namespace Sys2Proof.Machine

/-! ## The answers a command still asks for -/

/-- The transmit transactions a command has still to make, the next step's with them (41_frame_send R142 to R146,
42_frame_recv R173, R177). -/
def txLeft : St → Nat
  | .s1 => 4
  | .s2 | .s3 => 3
  | .s4 | .r1 | .r2 => 2
  | .s5 | .r3 | .r4 | .r5 | .r6 => 1
  | .idle | .c1 | .s6 => 0

/-- The receive transactions a command has still to make (41_frame_send R143, R147, 42_frame_recv R172 to R176). -/
def rxLeft : St → Nat
  | .r1 => 4
  | .r2 | .r3 => 3
  | .s1 | .s2 | .r4 => 2
  | .s3 | .s4 | .s5 | .s6 | .r5 => 1
  | .idle | .c1 | .r6 => 0

theorem txLeft_le_four (st : St) : txLeft st ≤ 4 := by
  cases st <;> decide

theorem rxLeft_le_four (st : St) : rxLeft st ≤ 4 := by
  cases st <;> decide

/-- The environment has an answer ready for every transaction still to come, of a command that has `tx` transmit and `rx`
receive transactions left. -/
structure Answered (tx rx : Nat) (l : Link) : Prop where
  answered : l.unanswered = false
  txEnough : tx ≤ l.txAnswers.length
  rxEnough : rx ≤ l.rxAnswers.length
  txNever : TxAnswer.never ∉ l.txAnswers
  rxNever : RxAnswer.never ∉ l.rxAnswers

/-- A transmit step takes one answer and leaves the link answered. -/
theorem transmit_answered {tx rx : Nat} {s : State} (bs : List Byte) {written next : State → State}
    (hwritten : ∀ t, (written t).link = t.link) (hnext : ∀ t, (next t).link = t.link)
    (h : Answered (tx + 1) rx s.link) : Answered tx rx (transmit bs written next s).link := by
  obtain ⟨hanswered, htx, hrx, htxNever, hrxNever⟩ := h
  cases htxs : s.link.txAnswers with
  | nil => simp [htxs] at htx
  | cons a rest =>
    rw [htxs] at htx htxNever
    have hrest : TxAnswer.never ∉ rest := fun hmem => htxNever (List.mem_cons_of_mem _ hmem)
    have hlen : tx ≤ rest.length := Nat.le_of_succ_le_succ htx
    cases a with
    | never => exact absurd List.mem_cons_self htxNever
    | accepted | writeFail k =>
      simp only [transmit, txGroup, hanswered, State.nextTxAnswer, State.dropTxAnswer, htxs, hwritten, hnext,
        state_finish_link, Bool.false_eq_true, if_false]
      exact ⟨rfl, hlen, hrx, hrest, hrxNever⟩

/-- A receive transaction takes one answer, and leaves the link answered and the block as it was. -/
theorem rxGroup_answered {tx rx : Nat} {s : State} (n : Nat) (h : Answered tx (rx + 1) s.link) :
    (rxGroup n s).1 ≠ .unanswered ∧ Answered tx rx (rxGroup n s).2.link := by
  obtain ⟨hanswered, htx, hrx, htxNever, hrxNever⟩ := h
  cases hrxs : s.link.rxAnswers with
  | nil => simp [hrxs] at hrx
  | cons a rest =>
    rw [hrxs] at hrx hrxNever
    have hrest : RxAnswer.never ∉ rest := fun hmem => hrxNever (List.mem_cons_of_mem _ hmem)
    have hlen : rx ≤ rest.length := Nat.le_of_succ_le_succ hrx
    cases a with
    | never => exact absurd List.mem_cons_self hrxNever
    | bytes | timeout k =>
      simp only [rxGroup, hanswered, State.nextRxAnswer, State.dropRxAnswer, hrxs, Bool.false_eq_true, if_false]
      exact ⟨nofun, rfl, htx, hlen, htxNever, hrest⟩

theorem ite_link {c : Prop} [Decidable c] {s t : State} {l : Link} (hs : s.link = l) (ht : t.link = l) :
    (if c then s else t).link = l := by
  split_ifs
  · exact hs
  · exact ht

theorem receive_answered {tx rx : Nat} {s : State} {n : Nat} {next : List Byte → State → State}
    (hnext : ∀ bs t, (next bs t).link = t.link) (h : Answered tx (rx + 1) s.link) :
    Answered tx rx (receive n next s).link := by
  obtain ⟨hno, hlink⟩ := rxGroup_answered n h
  unfold receive
  split <;> rename_i t heq <;> rw [heq] at hno hlink
  · exact hnext _ t ▸ hlink
  · exact hlink
  · exact absurd rfl hno

/-- The state in which an answered step that does not end the command leaves the block (10_state R42). -/
def nextSt : St → St
  | .s1 => .s2
  | .s2 => .s3
  | .s3 => .s4
  | .s4 => .s5
  | .s5 => .s6
  | .r1 => .r2
  | .r2 => .r3
  | .r3 => .r4
  | .r4 => .r5
  | .r5 => .r6
  | .idle | .c1 | .s6 | .r6 => .idle

theorem BlockGoesOn.st_eq {b b' : Block} (h : BlockGoesOn b b') : b'.st = nextSt b.st := by
  cases h <;> simp [nextSt, *]

theorem BlockGoesOn.transacts {s : State} {b' : Block} (h : BlockGoesOn s.block b') : s.transacts = true := by
  cases h <;> simp [State.transacts, *]

/-- A step that makes a transaction takes one answer of its kind. -/
theorem blockStep_answered {s : State} (htrans : s.transacts = true)
    (h : Answered (txLeft s.block.st) (rxLeft s.block.st) s.link) :
    Answered (txLeft (nextSt s.block.st)) (rxLeft (nextSt s.block.st)) (blockStep s).link := by
  unfold State.transacts at htrans
  cases hst : s.block.st <;> simp only [hst, Bool.false_eq_true] at htrans h
  case s1 =>
    rw [blockStep_s1 hst, stepS1, if_pos htrans]
    exact transmit_answered _ (fun _ => rfl) (fun _ => rfl) h
  case s2 =>
    rw [blockStep_s2 hst]
    exact receive_answered (fun _ _ => ite_link rfl (ite_link rfl rfl)) h
  case s3 => exact blockStep_s3 hst ▸ transmit_answered _ (fun _ => rfl) (fun _ => rfl) h
  case s4 => exact blockStep_s4 hst ▸ transmit_answered _ (fun _ => rfl) (fun _ => rfl) h
  case s5 => exact blockStep_s5 hst ▸ transmit_answered _ (fun _ => rfl) (fun _ => rfl) h
  case s6 =>
    rw [blockStep_s6 hst]
    exact receive_answered (fun _ _ => ite_link rfl rfl) h
  case r1 =>
    rw [blockStep_r1 hst, stepR1, if_pos htrans]
    exact receive_answered (fun _ _ => ite_link rfl rfl) h
  case r2 => exact blockStep_r2 hst ▸ transmit_answered _ (fun _ => rfl) (fun _ => rfl) h
  case r3 =>
    rw [blockStep_r3 hst]
    exact receive_answered (fun _ _ => ite_link rfl rfl) h
  case r4 =>
    obtain ⟨hno, hlink⟩ := rxGroup_answered s.block.nbytes.toNat h
    rw [blockStep_r4 hst, stepR4]
    split <;> rename_i t heq <;> rw [heq] at hno hlink
    · exact hlink
    · exact hlink
    · exact absurd rfl hno
  case r5 => exact blockStep_r5 hst ▸ receive_answered (fun _ _ => rfl) h
  case r6 =>
    rw [blockStep_r6 hst, stepR6]
    split_ifs
    · exact transmit_answered _ (fun _ => rfl) (fun _ => rfl) h
    · exact transmit_answered _ (fun _ => rfl) (fun _ => rfl) h

/-! ## A command that ends -/

/-- The command ends: it has ended, makes no transaction, or has an answer ready for each. -/
def State.Finishes (s : State) : Prop :=
  s.block.st = .idle ∨ s.block.st = .c1 ∨ Answered (txLeft s.block.st) (rxLeft s.block.st) s.link

theorem State.Finishes.congr {s t : State} (h : s.Finishes) (hblock : t.block = s.block) (hlink : t.link = s.link) :
    t.Finishes := by
  unfold State.Finishes
  rw [hblock, hlink]
  exact h

/-- A block step ends the command or takes it one step nearer to its end. -/
theorem State.Finishes.after_blockStep {s : State} (h : s.Finishes) (hrun : s.block.st ≠ .idle) :
    (blockStep s).Finishes ∧ stepsLeft (blockStep s).block.st < stepsLeft s.block.st := by
  have hpos : 0 < stepsLeft s.block.st := Nat.pos_of_ne_zero fun h0 => hrun (idle_of_stepsLeft_eq_zero h0)
  have hended (hidle : (blockStep s).block.st = .idle) :
      (blockStep s).Finishes ∧ stepsLeft (blockStep s).block.st < stepsLeft s.block.st :=
    ⟨.inl hidle, by rw [hidle]; exact hpos⟩
  rcases h with hidle | hc1 | hready
  · exact absurd hidle hrun
  · exact hended (blockStep_c1_idle hc1)
  have hout := blockStep_outcome hrun
  by_cases htrans : s.transacts = true
  · have hlink := blockStep_answered htrans hready
    have hless := (blockStep_progress hlink.answered).2
    refine ⟨?_, by omega⟩
    generalize blockStep s = t at hout hlink
    cases hout with
    | unanswered => exact absurd hlink.answered nofun
    | goesOn hadv _ _ _ => exact .inr (.inr (hadv.st_eq ▸ hlink))
    | ends hend _ _ _ => exact .inl hend.idle
  · refine hended ?_
    generalize blockStep s = t at hout
    cases hout with
    | unanswered _ _ _ h => exact absurd h htrans
    | goesOn hadv _ _ _ => exact absurd hadv.transacts htrans
    | ends hend _ _ _ => exact hend.idle

theorem busy_of_transacts {s : State} (h : s.transacts = true) : s.busy = true :=
  (busy_eq_true_iff s).2 fun hidle => by simp [transacts_idle hidle] at h

/-! ## WAIT with no event scheduled (30_encoding R109; log entry 33) -/

/-- No event is scheduled, and the controller's next operation is WAIT. -/
structure State.Waiting (ops : List CtlOp) (s : State) : Prop where
  sched : s.sched = []
  program : s.ctl.program = .wait :: ops

theorem State.Waiting.after_blockStep {ops : List CtlOp} {s : State} (h : s.Waiting ops) : (blockStep s).Waiting ops := by
  obtain ⟨-, hctl, hsched⟩ := blockStep_frame s
  exact ⟨hsched.trans h.sched, by rw [hctl]; exact h.program⟩

section
variable {ops : List CtlOp} {s : State} (hwait : s.Waiting ops)
include hwait

theorem controllerMove_wait :
    controllerMove s = .next { s with
      ctl.program := if s.busy then .wait :: ops else ops
      ctl.data := s.block.statusByte.setWidth 16 } := by
  simp only [controllerMove, hwait.program, doWait_eq]
  rfl

theorem step_wait_idle (hidle : s.busy = false) :
    step s = .next { s with ctl.program := ops, ctl.data := s.block.statusByte.setWidth 16 } := by
  rw [step_idle hidle hwait.sched, controllerMove_wait hwait, hidle]
  rfl

/-- While the block is busy, WAIT stays as often as the controller has moves before the next block step. -/
theorem step_wait_busy (hbusy : s.busy = true) {k : Nat} (hturns : s.turns = k + 1) :
    step s = .next { s with turns := k, ctl.data := s.block.statusByte.setWidth 16 } := by
  have hmove := controllerMove_wait (s := { s with turns := k }) ⟨hwait.sched, hwait.program⟩
  have hbusy' : ({ s with turns := k } : State).busy = true := hbusy
  rw [hbusy', if_pos rfl, ← hwait.program] at hmove
  simp only [step_eq_move, move, hwait.sched, freeMove, hbusy, if_true, hwait.program, hturns]
  rw [← hwait.program, ← hwait.sched]
  exact hmove

theorem step_wait_blockTurn (hbusy : s.busy = true) (hturns : s.turns = 0) : step s = .next (blockTurn s) := by
  simp only [step_eq_move, move, hwait.sched, freeMove, hbusy, if_true, hwait.program, hturns]

/-- The controller's moves are finitely many, so the busy block comes to its step, as it was. -/
theorem run_wait_to_blockStep (hbusy : s.busy = true) :
    ∃ (n : Nat) (u : State), Host.Core.run Sys2Proof.core n s = .next (blockStep u) ∧ u.block = s.block ∧
      u.link = s.link ∧ u.Waiting ops := by
  induction hk : s.turns generalizing s with
  | zero => exact ⟨1, _, run_one (step_wait_blockTurn hwait hbusy hk), rfl, rfl, hwait.sched, hwait.program⟩
  | succ k ih =>
    obtain ⟨n, u, hrun, hblock, hlink, hu⟩ :=
      ih (s := { s with turns := k, ctl.data := s.block.statusByte.setWidth 16 }) ⟨hwait.sched, hwait.program⟩ hbusy
        rfl
    exact ⟨n + 1, u, (run_succ (step_wait_busy hwait hbusy hk) n).trans hrun, hblock, hlink, hu⟩

/-- WAIT is done within finitely many steps of a command that ends, by the steps it has left. -/
theorem wait_ends (hend : s.Finishes) :
    ∃ (n : Nat) (t : State), Host.Core.run Sys2Proof.core n s = .next t ∧ t.busy = false ∧ t.ctl.program = ops := by
  induction hk : stepsLeft s.block.st using Nat.strong_induction_on generalizing s with
  | h k ih =>
    by_cases hidle : s.block.st = .idle
    · have hbusy : s.busy = false := (busy_eq_false_iff s).2 hidle
      exact ⟨1, _, run_one (step_wait_idle hwait hbusy), hbusy, rfl⟩
    · obtain ⟨n, u, hrun, hblock, hlink, hu⟩ := run_wait_to_blockStep hwait ((busy_eq_true_iff s).2 hidle)
      obtain ⟨hend', hless⟩ := (hend.congr hblock hlink).after_blockStep (hblock ▸ hidle)
      rw [hblock, hk] at hless
      obtain ⟨m, t, hrun', hdone⟩ := ih _ hless hu.after_blockStep hend' rfl
      exact ⟨n + m, t, (run_add hrun m).trans hrun', hdone⟩

/-- While a transaction is never answered, a step leaves the machine waiting (70_reset R281 (a)). -/
theorem step_wait_unanswered (hnever : s.link.unanswered = true) (htrans : s.transacts = true) :
    ∃ t : State, step s = .next t ∧ t.Waiting ops ∧ t.link.unanswered = true ∧ t.transacts = true := by
  have hbusy : s.busy = true := busy_of_transacts htrans
  cases hturns : s.turns with
  | zero =>
    refine ⟨_, step_wait_blockTurn hwait hbusy hturns, ?_⟩
    rw [blockTurn, blockStep_unanswered (by exact hnever) (by exact htrans)]
    exact ⟨⟨hwait.sched, hwait.program⟩, hnever, htrans⟩
  | succ k => exact ⟨_, step_wait_busy hwait hbusy hturns, ⟨hwait.sched, hwait.program⟩, hnever, htrans⟩

theorem run_wait_unanswered (hnever : s.link.unanswered = true) (htrans : s.transacts = true) (n : Nat) :
    ∃ t : State, Host.Core.run Sys2Proof.core n s = .next t ∧ t.busy = true ∧ t.ctl.program = .wait :: ops := by
  induction n generalizing s with
  | zero => exact ⟨s, rfl, busy_of_transacts htrans, hwait.program⟩
  | succ n ih =>
    obtain ⟨u, hstep, hu, hnever', htrans'⟩ := step_wait_unanswered hwait hnever htrans
    obtain ⟨t, hrun, hstays⟩ := ih hu hnever' htrans'
    exact ⟨t, (run_succ hstep n).trans hrun, hstays⟩

end

/-- Settles O51: no command asks for more than four answers of a kind, each block step takes one from the steps it has
left, and an unanswered transaction changes nothing. -/
theorem waitEndsWhenTransactionsAreAnswered : Obligations.WaitEndsWhenTransactionsAreAnswered := by
  unfold Obligations.WaitEndsWhenTransactionsAreAnswered
  intro s ops hsched hprogram
  have hwait : s.Waiting ops := ⟨hsched, hprogram⟩
  refine ⟨fun hcommand => wait_ends hwait ?_, run_wait_unanswered hwait⟩
  rcases hcommand with hc1 | ⟨hanswered, htx, hrx, htxNever, hrxNever⟩
  · exact .inr (.inl hc1)
  · exact .inr (.inr ⟨hanswered, (txLeft_le_four _).trans htx, (rxLeft_le_four _).trans hrx, htxNever, hrxNever⟩)

end Sys2Proof.Machine
end

section
/-!
PROOFS. The CRC engine (40_crc R120 to R127): it is linear, it tells seeds and bytes apart, and a word step is two byte
steps.
-/

namespace Sys2Proof.Machine

/-! ## Bit steps -/

/-- The polynomial goes in where the top bit comes out. -/
theorem crcBit_eq_xor (c : Half) : crcBit c = (c <<< 1) ^^^ bif c.getLsbD 15 then Config.crcPoly else 0#16 := by
  unfold crcBit
  cases c.getLsbD 15
  · exact BitVec.xor_zero.symm
  · rfl

/-- Two polynomials that go in cancel. -/
theorem crcBit_xor (a b : Half) : crcBit (a ^^^ b) = crcBit a ^^^ crcBit b := by
  have hpoly : (bif (a ^^^ b).getLsbD 15 then Config.crcPoly else 0#16) =
      (bif a.getLsbD 15 then Config.crcPoly else 0#16) ^^^ bif b.getLsbD 15 then Config.crcPoly else 0#16 := by
    rw [BitVec.getLsbD_xor]
    cases a.getLsbD 15 <;> cases b.getLsbD 15 <;> rfl
  simp only [crcBit_eq_xor, hpoly, BitVec.shiftLeft_xor_distrib]
  ac_rfl

/-- A polynomial that goes in shows in bit 0, and without one the value is shifted only. -/
theorem eq_zero_of_crcBit_eq_zero {c : Half} (h : crcBit c = 0#16) : c = 0#16 := by
  rw [crcBit_eq_xor] at h
  cases htop : c.getLsbD 15 <;> rw [htop] at h
  case true => simpa [Config.crcPoly] using congrArg (BitVec.getLsbD · 0) h
  case false =>
    have hshift : c.toNat * 2 % 2 ^ 16 = 0 := by simpa [Nat.shiftLeft_eq] using congrArg BitVec.toNat h
    have hlow : c.toNat < 2 ^ 15 := BitVec.toNat_lt_of_msb_false (by simpa [BitVec.msb_eq_getLsbD_last] using htop)
    exact BitVec.eq_of_toNat_eq (show c.toNat = 0 by omega)

theorem crcBits_xor (n : Nat) (a b : Half) : crcBits n (a ^^^ b) = crcBits n a ^^^ crcBits n b := by
  induction n generalizing a b with
  | zero => rfl
  | succ n ih => exact (congrArg _ (crcBit_xor a b)).trans (ih _ _)

theorem crcBits_zero (n : Nat) : crcBits n 0#16 = 0#16 := by
  induction n with
  | zero => rfl
  | succ n ih => exact ih

theorem crcBits_add (n m : Nat) (c : Half) : crcBits (n + m) c = crcBits m (crcBits n c) := by
  induction n generalizing c with
  | zero => rw [Nat.zero_add]; rfl
  | succ n ih => rw [Nat.succ_add]; exact ih (crcBit c)

theorem eq_zero_of_crcBits_eq_zero {n : Nat} {c : Half} (h : crcBits n c = 0#16) : c = 0#16 := by
  induction n generalizing c with
  | zero => exact h
  | succ n ih => exact eq_zero_of_crcBit_eq_zero (ih h)

theorem crcBits_injective (n : Nat) : Function.Injective (crcBits n) := fun a b h =>
  BitVec.xor_eq_zero_iff.1 (eq_zero_of_crcBits_eq_zero (n := n) (by rw [crcBits_xor, h, BitVec.xor_self]))

/-- While no bit reaches the top, the bit steps only shift. -/
theorem crcBits_eq_shiftLeft {n : Nat} {c : Half} (h : c.toNat * 2 ^ n < 2 ^ 16) : crcBits n c = c <<< n := by
  induction n generalizing c with
  | zero => exact (BitVec.shiftLeft_zero c).symm
  | succ n ih =>
    rw [Nat.pow_succ, Nat.mul_comm (2 ^ n), ← Nat.mul_assoc] at h
    have hlow : c.toNat * 2 < 2 ^ 16 := (Nat.le_mul_of_pos_right _ (Nat.two_pow_pos n)).trans_lt h
    have htop : c.getLsbD 15 = false := Nat.testBit_lt_two_pow (by omega)
    have hbit : crcBit c = c <<< 1 := by rw [crcBit_eq_xor, htop]; exact BitVec.xor_zero
    have hval : (c <<< 1).toNat = c.toNat * 2 := by
      rw [BitVec.toNat_shiftLeft, Nat.shiftLeft_eq, Nat.pow_one, Nat.mod_eq_of_lt hlow]
    rw [crcBits, hbit, ih (hval ▸ h), ← BitVec.shiftLeft_add, Nat.add_comm]

/-! ## Byte and word steps -/

/-- The value and the byte enter together, so the step is linear in both (40_crc R123). -/
theorem crcStep_xor (c d : Half) (a b : Byte) : crcStep (c ^^^ d) (a ^^^ b) = crcStep c a ^^^ crcStep d b := by
  rw [crcStep, crcStep, crcStep, ← crcBits_xor, BitVec.setWidth_xor, BitVec.shiftLeft_xor_distrib]
  congr 1
  ac_rfl

theorem crcStep_zero : crcStep 0#16 0#8 = 0#16 := crcBits_zero 8

/-- A word step is two byte steps, the high byte first: after eight bit steps the low byte stands at the top, where the
byte step puts it (40_crc R127). -/
theorem crcWordStep_append (c : Half) (a b : Byte) : crcWordStep c (a ++ b) = crcStep (crcStep c a) b := by
  have hlow : crcBits 8 (b.setWidth 16) = b.setWidth 16 <<< 8 := crcBits_eq_shiftLeft (by
    rw [BitVec.toNat_setWidth]
    omega)
  rw [crcWordStep, append_eq_shift_xor, crcBits_add 8 8, ← BitVec.xor_assoc, crcBits_xor, hlow]
  rfl

theorem crcStep_injective_left (b : Byte) : Function.Injective (crcStep · b) := fun _ _ h =>
  BitVec.xor_left_inj _ |>.1 (crcBits_injective 8 h)

theorem crcStep_injective_right (c : Half) : Function.Injective (crcStep c) := by
  intro a b h
  have htop : a.setWidth 16 <<< 8 = (b.setWidth 16 <<< 8 : Half) :=
    (BitVec.xor_right_inj _).1 (crcBits_injective 8 h)
  have hval := congrArg BitVec.toNat htop
  simp only [BitVec.toNat_shiftLeft, BitVec.toNat_setWidth, Nat.shiftLeft_eq] at hval
  exact BitVec.eq_of_toNat_eq (by omega)

/-! ## Sequences -/

theorem compute_append (seed : Half) (a b : List Byte) : compute seed (a ++ b) = compute (compute seed a) b := by
  induction a generalizing seed with
  | nil => rfl
  | cons v a ih => exact ih (crcStep seed v)

theorem compute_xor (s1 s2 : Half) (a b : List Byte) (h : a.length = b.length) :
    compute (s1 ^^^ s2) (List.zipWith (· ^^^ ·) a b) = compute s1 a ^^^ compute s2 b := by
  induction a generalizing s1 s2 b with
  | nil =>
    obtain rfl := List.length_eq_zero_iff.1 h.symm
    rfl
  | cons v a ih =>
    obtain ⟨w, b, rfl, hlen⟩ := List.exists_cons_of_length_eq_add_one h.symm
    rw [List.zipWith_cons_cons, compute, crcStep_xor]
    exact ih _ _ b (Nat.succ.inj h)

theorem compute_replicate_zero (n : Nat) : compute 0#16 (List.replicate n 0x00#8) = 0#16 := by
  induction n with
  | zero => rfl
  | succ n ih => rw [List.replicate_succ, compute, crcStep_zero, ih]

theorem compute_pair (seed : Half) (a b : Byte) : compute seed [a, b] = crcWordStep seed (a ++ b) :=
  (crcWordStep_append seed a b).symm

theorem compute_injective_seed (m : List Byte) : Function.Injective (compute · m) := by
  induction m with
  | nil => exact Function.injective_id
  | cons b m ih => exact ih.comp (crcStep_injective_left b)

/-- Sequences that differ in one byte part there, and no later byte brings them together (40_crc R130). -/
theorem compute_injective_byte (seed : Half) (before after : List Byte) :
    Function.Injective fun v => compute seed (before ++ v :: after) := by
  intro v w h
  simp only [compute_append] at h
  exact crcStep_injective_right _ (compute_injective_seed after h)

/-- Settles O17, by recursion on the first part. -/
theorem computeOfAppend : Obligations.ComputeOfAppend := by
  unfold Obligations.ComputeOfAppend
  exact fun seed a b => ⟨rfl, compute_append seed a b⟩

/-- Settles O18: each byte step is linear, and keeps zero on a zero byte. -/
theorem computeIsLinear : Obligations.ComputeIsLinear := by
  unfold Obligations.ComputeIsLinear
  exact ⟨compute_xor, compute_replicate_zero⟩

/-- Settles O19: the two bytes are the value itself as a word, which cancels it. -/
theorem computeResidueIsZero : Obligations.ComputeResidueIsZero := by
  unfold Obligations.ComputeResidueIsZero
  intro seed m
  have hword (c : Half) : (hi8 c ++ lo8 c : Half) = c := le16_lo8_hi8 c
  rw [compute_append, compute_pair, hword, crcWordStep, BitVec.xor_self, crcBits_zero]

/-! ## The frame check sequence -/

theorem foldl_payloadWords (seed : Half) (p : List Byte) (heven : p.length % 2 = 0) :
    (payloadWords p).foldl crcWordStep seed = compute seed (swapPairs p) := by
  match p with
  | [] => rfl
  | [_] => cases heven
  | a :: b :: rest =>
    have hrest : rest.length % 2 = 0 := (Nat.add_mod_right rest.length 2).symm.trans heven
    rw [payloadWords, List.foldl_cons, le16, crcWordStep_append, foldl_payloadWords _ rest hrest]
    rfl

/-- Settles O20: the header is one word, and each swapped pair of the payload one more. -/
theorem fcsEqualsWordForm : Obligations.FcsEqualsWordForm := by
  unfold Obligations.FcsEqualsWordForm
  intro opc lenf p heven
  rw [fcs, fcsWords, compute_append, compute_pair, List.foldl_cons, foldl_payloadWords _ p heven]

/-- The pair swap moves a changed byte, so one byte of the CRC's sequence has changed. -/
theorem compute_swapPairs_modify_ne (seed : Half) {f : Byte → Byte} (hf : ∀ v, f v ≠ v) (p : List Byte) (i : Nat)
    (hi : i < p.length) : compute seed (swapPairs (p.modify i f)) ≠ compute seed (swapPairs p) := by
  match p, i with
  | [a], 0 => exact (compute_injective_byte seed [] []).ne (hf a)
  | a :: b :: rest, 0 => exact (compute_injective_byte seed [b] (swapPairs rest)).ne (hf a)
  | a :: b :: rest, 1 => exact (compute_injective_byte seed [] (a :: swapPairs rest)).ne (hf b)
  | a :: b :: rest, i + 2 =>
    exact compute_swapPairs_modify_ne (crcStep (crcStep seed b) a) hf rest i (by simpa using hi)

theorem fcs_modify_ne (opc lenf : Byte) {f : Byte → Byte} (hf : ∀ v, f v ≠ v) {p : List Byte} {i : Nat}
    (hi : i < p.length) : fcs opc lenf (p.modify i f) ≠ fcs opc lenf p := by
  rw [fcs, fcs, compute_append, compute_append]
  exact compute_swapPairs_modify_ne _ hf p i hi

end Sys2Proof.Machine
end

section
/-!
PROOFS. CRC_RUN, from the access to its end (40_crc R129), and the protocol variant (40_crc R133).
-/

namespace Sys2Proof.Machine

/-- Settles O9: `stepUnder` tests for CANONICAL, which is the deployment's variant. -/
theorem otherVariantsAreRefused : Obligations.OtherVariantsAreRefused := by
  unfold Obligations.OtherVariantsAreRefused
  exact ⟨fun _ _ h => if_neg h, fun _ => rfl⟩

/-! ## CRC_RUN -/

theorem blockStep_c1 {s : State} (hst : s.block.st = .c1) : blockStep s = stepC1 s := by simp only [blockStep, hst]

/-- Settles O36: C1 tests N against the buffer's 510 bytes. -/
theorem crcRunStepComputes : Obligations.CrcRunStepComputes := by
  unfold Obligations.CrcRunStepComputes
  intro s hst
  rw [blockStep_c1 hst]
  exact ⟨fun hlong => if_pos hlong, fun hfit => if_neg (Nat.not_lt.2 hfit)⟩

/-- Settles O53: CRC_RUN starts in C1, which reads the NBYTES, SEED and BUF of before the command. -/
theorem crcRunLeavesChecksum : Obligations.CrcRunLeavesChecksum := by
  unfold Obligations.CrcRunLeavesChecksum
  intro s hi hidle
  obtain ⟨hlong, hfit⟩ := crcRunStepComputes { s with block := s.block.startCommand 0x01#8 } rfl
  exact ⟨_, exec_crcRun_idle hi hidle, fun h => ⟨_, rfl, hfit h⟩, hlong⟩

end Sys2Proof.Machine
end

section
/-!
PROOFS. RECV of a frame with one flipped bit (40_crc R130): its steps that refuse what they receive, and why a flip makes
them.
-/

namespace Sys2Proof.Machine

/-! ## The steps of RECV that refuse what they receive -/

section
variable {b : Block} {tx rx : List Byte} {txs : List TxAnswer} {rxs : List RxAnswer}

/-- An idle block stays as it is (10_state R43). -/
theorem leads_idle (hst : b.st = .idle) (n : Nat) (l : Link) : Leads n b l b l := by
  rintro s rfl rfl
  rw [Function.iterate_fixed (blockStep_idle hst)]
  exact ⟨rfl, rfl⟩

theorem leads_r1_refuses (hst : b.st = .r1) (hlen : lengthOk b.nbytes.toNat = true) {o : Byte}
    (ho : o ≠ Config.responseOpcode) :
    Leads 1 b ⟨tx, o :: rx, txs, .bytes :: rxs, false⟩ (Block.finish .unexpectedOpcode { b with errbyte := o })
      ⟨tx, rx, txs, rxs, false⟩ := by
  rintro s rfl hl
  rw [Function.iterate_one, blockStep_r1 hst, stepR1, if_pos hlen,
    receiveByte_held _ (by rw [hl]) (by rw [hl]) (by rw [hl]), if_pos ho]
  exact ⟨rfl, afterRx_link hl (s.draws + 1)⟩

theorem leads_r3_refuses (hst : b.st = .r3) {l : Byte} (hlenf : l ≠ lenField b.nbytes.toNat) :
    Leads 1 b ⟨tx, l :: rx, txs, .bytes :: rxs, false⟩
      (Block.finish .lengthMismatch { b with lenf := l, lenfReg := l, errbyte := l }) ⟨tx, rx, txs, rxs, false⟩ := by
  rintro s rfl hl
  rw [Function.iterate_one, blockStep_r3 hst, stepR3, receiveByte_held _ (by rw [hl]) (by rw [hl]) (by rw [hl])]
  simp only [state_withLenf_block, afterRx_block, ne_eq, hlenf, not_false_eq_true, if_true]
  exact ⟨rfl, afterRx_link hl (s.draws + 1)⟩

theorem leads_r6_refuses (hst : b.st = .r6) (hcrc : b.rxcrc ≠ b.crc) :
    Leads 1 b ⟨tx, rx, .accepted :: txs, rxs, false⟩ (b.finish .checksumMismatch)
      ⟨tx ++ [Config.tokenF], rx, txs, rxs, false⟩ := by
  rintro s rfl hl
  rw [Function.iterate_one, blockStep_r6 hst, stepR6, if_pos hcrc, transmit_accepted _ _ _ (by rw [hl]) (by rw [hl])]
  exact ⟨rfl, afterTx_link hl _ s.draws⟩

/-! ## RECV from R1 to its end, by what it refuses -/

theorem leads_recv_unexpectedOpcode (hst : b.st = .r1) (hlen : lengthOk b.nbytes.toNat = true) {o : Byte}
    (ho : o ≠ Config.responseOpcode) :
    Leads 6 b ⟨tx, o :: rx, txs, .bytes :: rxs, false⟩ (Block.finish .unexpectedOpcode { b with errbyte := o })
      ⟨tx, rx, txs, rxs, false⟩ :=
  (leads_r1_refuses hst hlen ho).trans (leads_idle rfl 5 _)

theorem leads_recv_lengthMismatch (hst : b.st = .r1) (hlen : lengthOk b.nbytes.toNat = true) {l : Byte}
    (hl : l ≠ lenField b.nbytes.toNat) :
    Leads 6 b ⟨tx, Config.responseOpcode :: l :: rx, .accepted :: txs, .bytes :: .bytes :: rxs, false⟩
      (Block.finish .lengthMismatch { b with lenf := l, lenfReg := l, errbyte := l })
      ⟨tx ++ [Config.tokenO], rx, txs, rxs, false⟩ :=
  (leads_r1 hst hlen).trans <|
    (leads_r2 (b := { b with st := .r2 }) rfl).trans <|
    (leads_r3_refuses (b := { b with st := .r3 }) rfl hl).trans (leads_idle rfl 3 _)

theorem leads_recv_checksumMismatch (hst : b.st = .r1) {p : List Byte} (hp : p.length = b.nbytes.toNat)
    (hlen : lengthOk b.nbytes.toNat = true) {l c0 c1 : Byte} {c : Half} (hl : l = lenField b.nbytes.toNat)
    (hc : c = fcs Config.responseOpcode l p) (hne : le16 c0 c1 ≠ c) :
    Leads 6 b
      ⟨tx, Config.responseOpcode :: l :: (p ++ c0 :: c1 :: rx), .accepted :: .accepted :: txs,
        .bytes :: .bytes :: .bytes :: .bytes :: rxs, false⟩
      (Block.finish .checksumMismatch
        { b with lenf := l, lenfReg := l, buf := b.buf.writeBytes 0 p, rxcrc := le16 c0 c1, crc := c, fcsAcc := c })
      ⟨tx ++ [Config.tokenO] ++ [Config.tokenF], rx, txs, rxs, false⟩ := by
  have hstored : ({ b with buf := b.buf.writeBytes 0 p } : Block).payload = p := by
    have h := memRead_writeBytes b p (hp ▸ ((lengthOk_iff _).1 hlen).2.2)
    rwa [hp] at h
  exact (leads_r1 hst hlen).trans <|
    (leads_r2 (b := { b with st := .r2 }) rfl).trans <|
    (leads_r3 (b := { b with st := .r3 }) rfl hl).trans <|
    (leads_r4 (b := { b with lenf := l, lenfReg := l, st := .r4 }) rfl hp).trans <|
    (leads_r5 (b := { b with lenf := l, lenfReg := l, buf := b.buf.writeBytes 0 p, st := .r5 }) rfl rfl
      ((payload_congr rfl rfl rfl).trans hstored) hc).trans <|
    leads_r6_refuses (b := { b with
      lenf := l, lenfReg := l, buf := b.buf.writeBytes 0 p, rxcrc := le16 c0 c1, crc := c, fcsAcc := c, st := .r6 }) rfl
      hne

end

/-! ## One changed byte of a frame (40_crc R130) -/

theorem le16_inj {a b c d : Byte} : le16 a b = le16 c d ↔ a = c ∧ b = d := by
  refine ⟨fun h => ?_, fun ⟨ha, hb⟩ => ha ▸ hb ▸ rfl⟩
  have hval := congrArg BitVec.toNat h
  rw [le16_toNat, le16_toNat] at hval
  exact ⟨BitVec.eq_of_toNat_eq (by omega), BitVec.eq_of_toNat_eq (by omega)⟩

theorem modify_append_of_lt {α : Type} (f : α → α) {l : List α} {i : Nat} (hi : i < l.length) (r : List α) :
    (l ++ r).modify i f = l.modify i f ++ r := by
  rw [List.modify_eq_take_cons_drop hi, List.modify_eq_take_cons_drop (List.length_append ▸ Nat.lt_add_right _ hi),
    List.take_append_of_le_length hi.le, List.drop_append_of_le_length hi, List.getElem_append_left hi,
    List.append_assoc, List.cons_append]

theorem modify_append_add {α : Type} (f : α → α) (l r : List α) (i : Nat) :
    (l ++ r).modify (l.length + i) f = l ++ r.modify i f := by
  rw [List.modify_eq_take_drop, List.modify_eq_take_drop, List.take_length_add_append, List.drop_length_add_append,
    List.append_assoc]

/-- A frame with one byte after its header changed holds a payload and a checksum that do not agree: a changed payload
has another checksum, and a changed checksum is not that of the payload. -/
theorem frameBytes_modify (opc : Byte) (p : List Byte) {f : Byte → Byte} (hf : ∀ v, f v ≠ v) {i : Nat}
    (hi : i < p.length + 2) :
    ∃ p' c0 c1, p'.length = p.length ∧
      (frameBytes opc p).modify (i + 2) f = opc :: lenField p.length :: (p' ++ [c0, c1]) ∧
      le16 c0 c1 ≠ fcs opc (lenField p.length) p' := by
  have hframe (c : Half) (hc : fcs opc (lenField p.length) p = c) : (frameBytes opc p).modify (i + 2) f =
      opc :: lenField p.length :: (p ++ [lo8 c, hi8 c]).modify i f := hc ▸ rfl
  generalize hc : fcs opc (lenField p.length) p = c
  rw [hframe c hc]
  rcases lt_or_ge i p.length with hpayload | hchecksum
  · refine ⟨p.modify i f, lo8 c, hi8 c, List.length_modify .., ?_, ?_⟩
    · rw [modify_append_of_lt f hpayload]
    · rw [le16_lo8_hi8, ← hc]
      exact (fcs_modify_ne opc _ hf hpayload).symm
  · obtain ⟨n, rfl⟩ := Nat.exists_eq_add_of_le hchecksum
    have hagree : fcs opc (lenField p.length) p = le16 (lo8 c) (hi8 c) := hc.trans (le16_lo8_hi8 c).symm
    have hn : n < 2 := Nat.lt_of_add_lt_add_left hi
    rw [modify_append_add]
    match n, hn with
    | 0, _ => exact ⟨p, f (lo8 c), hi8 c, rfl, rfl, fun h => hf _ (le16_inj.1 (h.trans hagree)).1⟩
    | 1, _ => exact ⟨p, lo8 c, f (hi8 c), rfl, rfl, fun h => hf _ (le16_inj.1 (h.trans hagree)).2⟩

theorem xor_twoPow_ne {k : Nat} (hk : k < 8) (v : Byte) : v ^^^ BitVec.twoPow 8 k ≠ v := by
  intro h
  simpa [hk] using congrArg (BitVec.getLsbD · k) h

/-- Settles O59: the flip is in the opcode, in the length byte, or in the payload and checksum, and RECV refuses what it
receives there. -/
theorem singleBitFlipIsDetected : Obligations.SingleBitFlipIsDetected := by
  unfold Obligations.SingleBitFlipIsDetected
  rintro s u t hi p rest j k txs rxs hidle hanswered heven hmin hmax hn hj hk htxs hrxs hstream hexec rfl
  obtain rfl := Host.Outcome.next.inj ((exec_recv_idle hi hidle).symm.trans hexec)
  have hflip := xor_twoPow_ne hk
  have hlen : lengthOk s.block.nbytes.toNat = true := (lengthOk_iff _).2 (hn ▸ ⟨heven, hmin, hmax⟩)
  have hlink : s.link = ⟨s.link.txStream, (frameBytes 0x00#8 p).modify j (· ^^^ BitVec.twoPow 8 k) ++ rest,
      .accepted :: .accepted :: txs, .bytes :: .bytes :: .bytes :: .bytes :: rxs, false⟩ := by
    rw [← hstream, ← htxs, ← hrxs, ← hanswered]
  refine ⟨?_, ?_, fun hj2 => ?_⟩
  · rintro rfl
    obtain ⟨hblock, hlink'⟩ := leads_recv_unexpectedOpcode (b := s.block.startCommand 0x03#8) rfl hlen (hflip _)
      { s with block := s.block.startCommand 0x03#8 } rfl hlink
    rw [hblock, hlink']
    exact ⟨rfl, rfl⟩
  · rintro rfl
    obtain ⟨hblock, hlink'⟩ := leads_recv_lengthMismatch (b := s.block.startCommand 0x03#8) rfl hlen
      (hn ▸ hflip _) { s with block := s.block.startCommand 0x03#8 } rfl hlink
    rw [hblock, hlink']
    exact ⟨rfl, rfl⟩
  · obtain ⟨i, rfl⟩ := Nat.exists_eq_add_of_le' hj2
    obtain ⟨p', c0, c1, hp', hframe, hne⟩ := frameBytes_modify 0x00#8 p hflip (Nat.lt_of_add_lt_add_right hj)
    have hstream' : (frameBytes 0x00#8 p).modify (i + 2) (· ^^^ BitVec.twoPow 8 k) ++ rest =
        Config.responseOpcode :: lenField p.length :: (p' ++ c0 :: c1 :: rest) := by
      rw [hframe]
      simp [Config.responseOpcode]
    rw [hstream'] at hlink
    obtain ⟨hblock, hlink'⟩ := leads_recv_checksumMismatch (b := s.block.startCommand 0x03#8) rfl (hp'.trans hn.symm)
      hlen (hn ▸ rfl) rfl hne { s with block := s.block.startCommand 0x03#8 } rfl hlink
    rw [hblock, hlink']
    exact ⟨rfl, List.append_assoc ..⟩

end Sys2Proof.Machine
end

section
/-!
PROOFS. The transmitting steps of SEND, by how their transaction ends (41_frame_send R141 to R146).
-/

namespace Sys2Proof.Machine

section
variable {bs : List Byte} {s t : State}

theorem transmit_of_accepted (written next : State → State) (h : txGroup bs s = (.accepted, t)) :
    transmit bs written next s = next (written t) := by
  simp only [transmit, h]

theorem transmit_of_writeFail (written next : State → State) (h : txGroup bs s = (.writeFail, t)) :
    transmit bs written next s = (written t).finish .transportWrite := by
  simp only [transmit, h]

end

/-- Settles O37: S1 tests the length first, and transmits only where it is accepted. -/
theorem sendStep1ChecksLengthThenSendsOpcode : Obligations.SendStep1ChecksLengthThenSendsOpcode := by
  unfold Obligations.SendStep1ChecksLengthThenSendsOpcode
  intro s t hst
  rw [blockStep_s1 hst]
  refine ⟨fun hbad => if_neg (Bool.eq_false_iff.1 (lengthOk_eq_false hbad)), fun heven hmin hmax => ?_⟩
  rw [stepS1, if_pos ((lengthOk_iff _).2 ⟨heven, hmin, hmax⟩)]
  exact ⟨transmit_of_accepted _ _, transmit_of_writeFail _ _⟩

/-- Settles O39: each of the three steps is one transmit transaction, before whose end it writes its registers. -/
theorem sendSteps3To5SendLengthPayloadChecksum : Obligations.SendSteps3To5SendLengthPayloadChecksum := by
  unfold Obligations.SendSteps3To5SendLengthPayloadChecksum
  intro s t
  refine ⟨fun hst _ _ _ l hl => ?_, fun hst => ?_, fun hst c hc => ?_⟩
  · subst hl
    rw [blockStep_s3 hst]
    exact ⟨transmit_of_accepted _ _, transmit_of_writeFail _ _⟩
  · rw [blockStep_s4 hst]
    exact ⟨transmit_of_accepted _ _, transmit_of_writeFail _ _⟩
  · subst hc
    rw [blockStep_s5 hst]
    exact ⟨transmit_of_accepted _ _, transmit_of_writeFail _ _⟩

end Sys2Proof.Machine
end

section
/-!
PROOFS. What SEND transmits under every environment (41_frame_send R148 to R150): the bytes sent so far are told by the state
of SEND, and once it has ended by its result.
-/

namespace Sys2Proof.Machine

/-- How a SEND of the opcode and payload in `b`, started with `rx` held by the transport, can have ended: the bytes sent and
ERRBYTE, by result (41_frame_send R149). A failed write can have delivered any first part of its group (20_memory R70). -/
def SendEnd (b : Block) (rx sent : List Byte) (err : Byte) : ResultCode → Prop
  | .ok => sent = frameBytes b.opc b.payload
  | .deviceRejectedFrame =>
    sent = frameBytes b.opc b.payload ∧ err ≠ Config.tokenO ∧ ∀ a e rest, rx = a :: e :: rest → err = e
  | .deviceNotReady => sent = [b.opc] ∧ err = Config.tokenF
  | .unexpectedAck =>
    sent = [b.opc] ∧ err ≠ Config.tokenF ∧ err ≠ Config.tokenO ∧ ∀ a rest, rx = a :: rest → err = a
  | .timeout => sent = [b.opc] ∨ sent = frameBytes b.opc b.payload
  | .transportWrite => sent <+: frameBytes b.opc b.payload
  | .badLength => sent = []
  | .unexpectedOpcode | .lengthMismatch | .checksumMismatch | .illegalCommand => False

/-- The account of a SEND of the opcode and payload in `b`, started with the link `l`: in each of its states what it has sent,
and what the ready-ack has left of the held bytes (41_frame_send R141 to R147). -/
inductive SendAccount (b : Block) (l : Link) (s : State) : Prop
  | s1 : s.block.st = .s1 → s.link.txStream = l.txStream → s.link.rxStream = l.rxStream → SendAccount b l s
  | s2 : s.block.st = .s2 → s.link.txStream = l.txStream ++ [b.opc] → s.link.rxStream = l.rxStream → SendAccount b l s
  | s3 : s.block.st = .s3 → s.link.txStream = l.txStream ++ [b.opc] → s.link.rxStream = l.rxStream.drop 1 →
      SendAccount b l s
  | s4 : s.block.st = .s4 → s.link.txStream = l.txStream ++ [b.opc, lenField b.payload.length] →
      s.link.rxStream = l.rxStream.drop 1 → s.block.lenf = lenField b.payload.length → SendAccount b l s
  | s5 : s.block.st = .s5 → s.link.txStream = l.txStream ++ ([b.opc, lenField b.payload.length] ++ b.payload) →
      s.link.rxStream = l.rxStream.drop 1 → s.block.lenf = lenField b.payload.length → SendAccount b l s
  | s6 : s.block.st = .s6 → s.link.txStream = l.txStream ++ frameBytes b.opc b.payload →
      s.link.rxStream = l.rxStream.drop 1 → SendAccount b l s
  | ended (sent : List Byte) : s.block.st = .idle → s.link.txStream = l.txStream ++ sent →
      SendEnd b l.rxStream sent s.block.errbyte s.block.result → SendAccount b l s

/-- A state in the run, or after the end, of a SEND of the opcode and payload in `b`, started with the link `l`. -/
structure SendRun (b : Block) (l : Link) (s : State) : Prop where
  opc : s.block.opc = b.opc
  payload : s.block.payload = b.payload
  account : SendAccount b l s

/-- Where a group of a frame fails, what was sent is still a first part of the frame. -/
theorem prefix_of_failed_write {frame sent bs rest : List Byte} (h : frame = sent ++ (bs ++ rest)) (k : Nat) :
    sent ++ bs.take k <+: frame := by
  rw [h, List.prefix_append_right_inj]
  exact (List.take_prefix k bs).trans (List.prefix_append bs rest)

/-! ## Each step of SEND -/

section
variable {b : Block} {l : Link} {s : State}

theorem SendRun.lenField_nbytes (h : SendRun b l s) : lenField s.block.nbytes.toNat = lenField b.payload.length := by
  rw [← h.payload, payload_length]

/-- A transaction that is never answered leaves the account as it is. -/
theorem SendRun.never_answered (h : SendRun b l s) (txs : List TxAnswer) (rxs : List RxAnswer) (d : Nat) :
    SendRun b l (s.afterNone txs rxs d) := by
  refine ⟨h.opc, h.payload, ?_⟩
  cases h.account with
  | s1 hst htx hrx => exact .s1 hst htx hrx
  | s2 hst htx hrx => exact .s2 hst htx hrx
  | s3 hst htx hrx => exact .s3 hst htx hrx
  | s4 hst htx hrx hlenf => exact .s4 hst htx hrx hlenf
  | s5 hst htx hrx hlenf => exact .s5 hst htx hrx hlenf
  | s6 hst htx hrx => exact .s6 hst htx hrx
  | ended sent hst htx hend => exact .ended sent hst htx hend

theorem SendRun.after_stepS1 (h : SendRun b l s) (htx : s.link.txStream = l.txStream) (hrx : s.link.rxStream = l.rxStream) :
    SendRun b l (stepS1 s) := by
  rcases stepS1_cases s with ⟨-, hs⟩ | ⟨-, ⟨a, d, hs⟩ | ⟨k, a, d, hs⟩ | ⟨a, c, d, -, hs⟩⟩ <;> rw [hs]
  · exact ⟨h.opc, h.payload, .ended [] rfl (htx.trans (List.append_nil _).symm) rfl⟩
  · exact ⟨h.opc, h.payload, .s2 rfl (by simp [htx, h.opc]) hrx⟩
  · exact ⟨h.opc, h.payload, .ended ([b.opc].take k) rfl (by simp [htx, h.opc])
      (prefix_of_failed_write (sent := []) rfl k)⟩
  · exact h.never_answered a c d

theorem SendRun.after_stepS2 (h : SendRun b l s) (htx : s.link.txStream = l.txStream ++ [b.opc])
    (hrx : s.link.rxStream = l.rxStream) : SendRun b l (stepS2 s) := by
  rcases stepS2_cases s with
    ⟨k, a, d, hs⟩ | ⟨v, a, d, hv, ⟨hF, hs⟩ | ⟨hF, hO, hs⟩ | ⟨-, hs⟩⟩ | ⟨a, c, d, -, hs⟩ <;> rw [hs]
  · exact ⟨h.opc, h.payload, .ended _ rfl htx (.inl rfl)⟩
  · exact ⟨h.opc, h.payload, .ended _ rfl htx ⟨rfl, hF⟩⟩
  · exact ⟨h.opc, h.payload, .ended _ rfl htx ⟨rfl, hF, hO, hrx ▸ hv⟩⟩
  · exact ⟨h.opc, h.payload, .s3 rfl htx (congrArg _ hrx)⟩
  · exact h.never_answered a c d

theorem SendRun.after_stepS3 (h : SendRun b l s) (htx : s.link.txStream = l.txStream ++ [b.opc])
    (hrx : s.link.rxStream = l.rxStream.drop 1) : SendRun b l (stepS3 s) := by
  have hcases := stepS3_cases s
  rw [h.lenField_nbytes] at hcases
  rcases hcases with ⟨a, d, hs⟩ | ⟨k, a, d, hs⟩ | ⟨a, c, d, -, hs⟩ <;> rw [hs]
  · exact ⟨h.opc, h.payload, .s4 rfl (by simp [htx]) hrx rfl⟩
  · exact ⟨h.opc, h.payload, .ended ([b.opc] ++ [lenField b.payload.length].take k) rfl (by simp [htx])
      (prefix_of_failed_write rfl k)⟩
  · exact h.never_answered a c d

theorem SendRun.after_stepS4 (h : SendRun b l s) (htx : s.link.txStream = l.txStream ++ [b.opc, lenField b.payload.length])
    (hrx : s.link.rxStream = l.rxStream.drop 1) (hlenf : s.block.lenf = lenField b.payload.length) :
    SendRun b l (stepS4 s) := by
  rcases stepS4_cases s with ⟨a, d, hs⟩ | ⟨k, a, d, hs⟩ | ⟨a, c, d, -, hs⟩ <;> rw [hs]
  · exact ⟨h.opc, h.payload, .s5 rfl (by simp [htx, h.payload]) hrx hlenf⟩
  · exact ⟨h.opc, h.payload, .ended ([b.opc, lenField b.payload.length] ++ b.payload.take k) rfl
      (by simp [htx, h.payload]) (prefix_of_failed_write rfl k)⟩
  · exact h.never_answered a c d

theorem SendRun.after_stepS5 (h : SendRun b l s)
    (htx : s.link.txStream = l.txStream ++ ([b.opc, lenField b.payload.length] ++ b.payload))
    (hrx : s.link.rxStream = l.rxStream.drop 1) (hlenf : s.block.lenf = lenField b.payload.length) :
    SendRun b l (stepS5 s) := by
  obtain ⟨c, hc⟩ : ∃ c, c = fcs b.opc (lenField b.payload.length) b.payload := ⟨_, rfl⟩
  have hframe : frameBytes b.opc b.payload =
      [b.opc, lenField b.payload.length] ++ b.payload ++ [lo8 c, hi8 c] := by rw [hc]; rfl
  rcases stepS5_cases s c (by rw [hc, h.opc, h.payload, hlenf]) with
    ⟨a, d, hs⟩ | ⟨k, a, d, hs⟩ | ⟨a, c, d, -, hs⟩ <;> rw [hs]
  · exact ⟨h.opc, h.payload, .s6 rfl (by simp [htx, hframe]) hrx⟩
  · exact ⟨h.opc, h.payload, .ended ([b.opc, lenField b.payload.length] ++ b.payload ++ [lo8 c, hi8 c].take k) rfl
      (by simp [htx]) (prefix_of_failed_write (rest := []) (hframe.trans (by rw [List.append_nil])) k)⟩
  · exact h.never_answered a c d

theorem SendRun.after_stepS6 (h : SendRun b l s) (htx : s.link.txStream = l.txStream ++ frameBytes b.opc b.payload)
    (hrx : s.link.rxStream = l.rxStream.drop 1) : SendRun b l (stepS6 s) := by
  rcases stepS6_cases s with ⟨k, a, d, hs⟩ | ⟨v, a, d, hv, ⟨hO, hs⟩ | ⟨-, hs⟩⟩ | ⟨a, c, d, -, hs⟩ <;> rw [hs]
  · exact ⟨h.opc, h.payload, .ended _ rfl htx (.inr rfl)⟩
  · exact ⟨h.opc, h.payload, .ended _ rfl htx
      ⟨rfl, hO, fun _ e rest hheld => hv e rest (hrx.trans (congrArg (List.drop 1) hheld))⟩⟩
  · exact ⟨h.opc, h.payload, .ended _ rfl htx rfl⟩
  · exact h.never_answered a c d

/-- A block step keeps the account of what SEND has sent. -/
theorem SendRun.after_blockStep (h : SendRun b l s) : SendRun b l (blockStep s) := by
  cases h.account with
  | s1 hst htx hrx => exact blockStep_s1 hst ▸ h.after_stepS1 htx hrx
  | s2 hst htx hrx => exact blockStep_s2 hst ▸ h.after_stepS2 htx hrx
  | s3 hst htx hrx => exact blockStep_s3 hst ▸ h.after_stepS3 htx hrx
  | s4 hst htx hrx hlenf => exact blockStep_s4 hst ▸ h.after_stepS4 htx hrx hlenf
  | s5 hst htx hrx hlenf => exact blockStep_s5 hst ▸ h.after_stepS5 htx hrx hlenf
  | s6 hst htx hrx => exact blockStep_s6 hst ▸ h.after_stepS6 htx hrx
  | ended sent hst htx hend => exact (blockStep_idle hst).symm ▸ h

theorem SendRun.iterate (h : SendRun b l s) (n : Nat) : SendRun b l (blockStep^[n] s) := by
  induction n with
  | zero => exact h
  | succ n ih => rw [Function.iterate_succ_apply']; exact ih.after_blockStep

end

/-! ## What SEND has sent, read off its state -/

section
variable {b : Block} {rx sent : List Byte} {err : Byte} {code : ResultCode}

/-- However SEND ends, what it has sent is a first part of the frame. -/
theorem SendEnd.sent_prefix (h : SendEnd b rx sent err code) : sent <+: frameBytes b.opc b.payload := by
  have hopc : [b.opc] <+: frameBytes b.opc b.payload := List.prefix_append [b.opc] _
  cases code with
  | ok => exact h ▸ List.prefix_rfl
  | deviceRejectedFrame => exact h.1 ▸ List.prefix_rfl
  | deviceNotReady | unexpectedAck => exact h.1 ▸ hopc
  | timeout =>
    rcases h with rfl | rfl
    · exact hopc
    · exact List.prefix_rfl
  | transportWrite => exact h
  | badLength => exact h ▸ List.nil_prefix
  | unexpectedOpcode | lengthMismatch | checksumMismatch | illegalCommand => exact h.elim

/-- A SEND can end with these results and no others. -/
theorem SendEnd.code_mem (h : SendEnd b rx sent err code) :
    code ∈ [ResultCode.ok, .deviceNotReady, .unexpectedAck, .deviceRejectedFrame, .timeout, .transportWrite,
      .badLength] := by
  cases code with
  | ok | deviceNotReady | unexpectedAck | deviceRejectedFrame | timeout | transportWrite | badLength => decide
  | unexpectedOpcode | lengthMismatch | checksumMismatch | illegalCommand => exact h.elim

theorem SendEnd.of_eq (h : SendEnd b rx sent err code) {c : ResultCode} (hcode : code = c) : SendEnd b rx sent err c :=
  hcode ▸ h

/-- SEND has sent a first part of its frame, and if it has ended its result says which. -/
theorem SendAccount.sentBytes {l : Link} {s : State} (h : SendAccount b l s) :
    ∃ sent, s.link.txStream = l.txStream ++ sent ∧ sent <+: frameBytes b.opc b.payload ∧
      (s.block.st = .idle → SendEnd b l.rxStream sent s.block.errbyte s.block.result) := by
  have hrunning {st : St} {p : Prop} (hst : s.block.st = st) (hne : st ≠ .idle) : s.block.st = .idle → p :=
    fun hidle => absurd (hst.symm.trans hidle) hne
  cases h with
  | s1 hst htx => exact ⟨[], by rw [htx, List.append_nil], List.nil_prefix, hrunning hst nofun⟩
  | s2 hst htx | s3 hst htx => exact ⟨_, htx, List.prefix_append [b.opc] _, hrunning hst nofun⟩
  | s4 hst htx => exact ⟨_, htx, List.prefix_append [b.opc, lenField b.payload.length] _, hrunning hst nofun⟩
  | s5 hst htx => exact ⟨_, htx, List.prefix_append _ _, hrunning hst nofun⟩
  | s6 hst htx => exact ⟨_, htx, List.prefix_rfl, hrunning hst nofun⟩
  | ended sent _ htx hend => exact ⟨sent, htx, hend.sent_prefix, fun _ => hend⟩

end

/-- Settles O55: the account holds at the start of SEND, every step keeps it, and at the end it names the result. -/
theorem sendTransmitsPrefixOfFrame : Obligations.SendTransmitsPrefixOfFrame := by
  unfold Obligations.SendTransmitsPrefixOfFrame
  rintro s u t hi hidle - hexec rfl
  obtain rfl := Host.Outcome.next.inj ((exec_send_idle hi hidle).symm.trans hexec)
  have hstart : SendRun s.block s.link { s with block := s.block.startCommand 0x02#8 } :=
    ⟨rfl, payload_congr rfl rfl rfl, .s1 rfl rfl rfl⟩
  obtain ⟨sent, htx, hprefix, hend⟩ := (hstart.iterate 6).account.sentBytes
  refine ⟨sent, htx, hprefix, fun hended => ?_⟩
  have hresult := hend ((busy_eq_false_iff _).1 hended)
  exact ⟨hresult.code_mem, hresult.of_eq, hresult.of_eq, hresult.of_eq, hresult.of_eq, hresult.of_eq, hresult.of_eq⟩

end Sys2Proof.Machine
end

section
/-!
PROOFS. A SEND looped back into a RECV (42_frame_recv R183): the two commands that succeed, from their start to their end.
-/

namespace Sys2Proof.Machine

section
variable {tx rx : List Byte} {txs : List TxAnswer} {rxs : List RxAnswer}

theorem link_withRxStream {l : Link} {un : Bool} (htx : l.txStream = tx) (htxs : l.txAnswers = txs)
    (hrxs : l.rxAnswers = rxs) (hun : l.unanswered = un) (rx : List Byte) :
    { l with rxStream := rx } = (⟨tx, rx, txs, rxs, un⟩ : Link) := by
  subst htx htxs hrxs hun
  rfl

/-- SEND from its start, acknowledged twice: the frame of OPC and BUF goes onto the stream, and RESULT is OK. -/
theorem leads_startSend (b : Block) (hlen : lengthOk b.nbytes.toNat = true) :
    ∃ b', Leads 6 (b.startCommand 0x02#8)
        ⟨tx, Config.tokenO :: Config.tokenO :: rx, .accepted :: .accepted :: .accepted :: .accepted :: txs,
          .bytes :: .bytes :: rxs, false⟩
        b' ⟨tx ++ frameBytes b.opc b.payload, rx, txs, rxs, false⟩ ∧
      b'.result = .ok := by
  have hpayload : (b.startCommand 0x02#8).payload = b.payload := payload_congr rfl rfl rfl
  exact ⟨_, hpayload ▸ leads_send (b := b.startCommand 0x02#8) rfl hlen rfl rfl, rfl⟩

/-- RECV from its start, of a frame of N bytes: both tokens are 'O', RESULT is OK and BUF holds the frame's payload. -/
theorem leads_startRecv (b : Block) {p : List Byte} (hp : p.length = b.nbytes.toNat)
    (hlen : lengthOk b.nbytes.toNat = true) :
    ∃ b', Leads 6 (b.startCommand 0x03#8)
        ⟨tx, frameBytes Config.responseOpcode p ++ rx, .accepted :: .accepted :: txs,
          .bytes :: .bytes :: .bytes :: .bytes :: rxs, false⟩
        b' ⟨tx ++ [Config.tokenO, Config.tokenO], rx, txs, rxs, false⟩ ∧
      b'.result = .ok ∧ b'.payload = p := by
  have hstored := memRead_writeBytes b p (hp ▸ ((lengthOk_iff _).1 hlen).2.2)
  rw [hp] at hstored
  exact ⟨_, leads_recv (b := b.startCommand 0x03#8) rfl hp (hp ▸ hlen) rfl rfl, rfl,
    (payload_congr rfl rfl rfl).trans hstored⟩

end

/-- Settles O60: SEND turns B's tokens into the frame of A's payload, and RECV turns that frame into the payload and those
tokens. -/
theorem loopbackRoundTrip : Obligations.LoopbackRoundTrip := by
  unfold Obligations.LoopbackRoundTrip
  rintro a b ua ub ta tb ha hb hidleA hidleB hansweredA hansweredB hopc hn heven hmin hmax htxA htxB htxsA htxsB hrxsA hrxsB
    hexecA hexecB rfl rfl
  obtain rfl := Host.Outcome.next.inj ((exec_send_idle ha hidleA).symm.trans hexecA)
  obtain rfl := Host.Outcome.next.inj ((exec_recv_idle hb hidleB).symm.trans hexecB)
  have hlen : lengthOk a.block.nbytes.toNat = true := (lengthOk_iff _).2 ⟨heven, hmin, hmax⟩
  have hlinkA (rx : List Byte) : { a.link with rxStream := rx } =
      (⟨[], rx, [.accepted, .accepted, .accepted, .accepted], [.bytes, .bytes], false⟩ : Link) :=
    link_withRxStream htxA htxsA hrxsA hansweredA rx
  have hlinkB (rx : List Byte) : { b.link with rxStream := rx } =
      (⟨[], rx, [.accepted, .accepted], [.bytes, .bytes, .bytes, .bytes], false⟩ : Link) :=
    link_withRxStream htxB htxsB hrxsB hansweredB rx
  obtain ⟨a', hsend, hokA⟩ := leads_startSend (tx := []) (rx := []) (txs := []) (rxs := []) a.block hlen
  obtain ⟨b', hrecv, hokB, hpayload⟩ := leads_startRecv (tx := []) (rx := []) (txs := []) (rxs := []) b.block
    (p := a.block.payload) (hn ▸ payload_length a.block) (hn ▸ hlen)
  obtain ⟨hblockA, hendA⟩ := hsend
    { a with block := a.block.startCommand 0x02#8, link.rxStream := [0x4F#8, 0x4F#8] } rfl (hlinkA _)
  rw [hopc, List.nil_append] at hendA
  obtain ⟨hblockB, hendB⟩ := hrecv
    { b with block := b.block.startCommand 0x03#8, link.rxStream := frameBytes 0x00#8 a.block.payload ++ [] } rfl
    (hlinkB _)
  rw [List.append_nil] at hblockB hendB
  rw [hendA, hendB, hblockA, hblockB]
  exact ⟨rfl, rfl, rfl, hokA, hokB, hpayload⟩

end Sys2Proof.Machine
end

section
/-!
PROOFS. The steps of RECV that test the length, the opcode, the length byte and the checksum, by how their transaction ends
(42_frame_recv R171 to R174, R177).
-/

namespace Sys2Proof.Machine

/-- Settles O41: R1 tests the length first, and receives the opcode only where it is accepted. -/
theorem recvStep1ChecksLengthThenOpcode : Obligations.RecvStep1ChecksLengthThenOpcode := by
  unfold Obligations.RecvStep1ChecksLengthThenOpcode
  intro s t hst
  rw [blockStep_r1 hst]
  refine ⟨fun hbad => if_neg (Bool.eq_false_iff.1 (lengthOk_eq_false hbad)), fun heven hmin hmax => ?_⟩
  rw [stepR1, if_pos ((lengthOk_iff _).2 ⟨heven, hmin, hmax⟩)]
  refine ⟨receiveByte_of_timeout _, fun o h => ?_⟩
  rw [receiveByte_of_byte _ h]
  exact ⟨fun hO => if_pos hO, fun hO => if_neg (not_not.2 hO)⟩

/-- Settles O42: R2 is one transmit transaction; R3 receives the length byte and compares it with that of NBYTES, which its
transaction leaves. -/
theorem recvSteps2And3SendReadyThenTestLength : Obligations.RecvSteps2And3SendReadyThenTestLength := by
  unfold Obligations.RecvSteps2And3SendReadyThenTestLength
  intro s t
  refine ⟨fun hst => ?_, fun hst _ _ _ => ?_⟩
  · rw [blockStep_r2 hst]
    exact ⟨transmit_of_accepted _ _, transmit_of_writeFail _ _⟩
  · rw [blockStep_r3 hst]
    refine ⟨receiveByte_of_timeout _, fun l h => ?_⟩
    rw [stepR3, receiveByte_of_byte _ h, ← (rxGroup_bytes h).2]
    exact ⟨fun hl => if_pos hl, fun hl => if_neg (not_not.2 hl)⟩

/-- Settles O45: R6 compares the two checksums, and transmits the token its result stands for. -/
theorem recvStep6SendsEndAck : Obligations.RecvStep6SendsEndAck := by
  unfold Obligations.RecvStep6SendsEndAck
  intro s t hst
  rw [blockStep_r6 hst, stepR6]
  refine ⟨fun hne => ?_, fun heq => ?_⟩
  · rw [if_pos hne]
    exact ⟨transmit_of_accepted _ _, transmit_of_writeFail _ _⟩
  · rw [if_neg (not_not.2 heq)]
    exact ⟨transmit_of_accepted _ _, transmit_of_writeFail _ _⟩

end Sys2Proof.Machine
end

section
/-!
PROOFS. That RECV ends with OK on a good frame only, under every environment (42_frame_recv R176 to R180): the bytes it has
taken so far, held or late, are told by the state of RECV.
-/

namespace Sys2Proof.Machine

/-! ## Taking bytes from a stream of which the transport holds a first part -/

/-- From a stream of which `rx` was held, `bs` were taken and `held` is left: the bytes taken are the held ones as far as
both go, the others arrived late (20_memory R71; log entry 3). -/
structure TakenFrom (rx bs held : List Byte) : Prop where
  agree : bs.take rx.length = rx.take bs.length
  left : held = rx.drop bs.length

theorem TakenFrom.start (rx : List Byte) : TakenFrom rx [] rx := ⟨by simp, rfl⟩

section
variable {rx bs held : List Byte}

theorem TakenFrom.append (h : TakenFrom rx bs held) {cs : List Byte} (hcs : cs.take held.length = held.take cs.length) :
    TakenFrom rx (bs ++ cs) (held.drop cs.length) := by
  obtain ⟨hagree, rfl⟩ := h
  rw [List.length_drop] at hcs
  constructor
  · rw [List.take_append, List.length_append, List.take_add, hagree, hcs]
  · rw [List.drop_drop, List.length_append]

/-- A single byte is the next one held, if one is. -/
theorem TakenFrom.append_byte (h : TakenFrom rx bs held) {v : Byte} (hv : ∀ c rest, held = c :: rest → v = c) :
    TakenFrom rx (bs ++ [v]) (held.drop 1) := by
  refine h.append (cs := [v]) ?_
  cases held with
  | nil => rfl
  | cons c rest => simp [hv c rest rfl]

/-- The two bytes of a checksum, as halves of the value they assemble to (30_encoding R101). -/
theorem TakenFrom.append_checksum (h : TakenFrom rx bs held) {c0 c1 : Byte}
    (htake : [c0, c1].take held.length = held.take 2) :
    TakenFrom rx (bs ++ [lo8 (le16 c0 c1), hi8 (le16 c0 c1)]) (held.drop 2) := by
  obtain ⟨hlo, hhi⟩ := le16_inj.1 (le16_lo8_hi8 (le16 c0 c1))
  rw [hlo, hhi]
  exact h.append htake

end

/-! ## The account of a RECV -/

/-- A frame is its payload with a two-byte header and a two-byte checksum (30_encoding R97). -/
theorem frameBytes_length (opc : Byte) (p : List Byte) : (frameBytes opc p).length = 4 + p.length := by
  simp only [frameBytes, List.length_append, List.length_cons, List.length_nil]
  omega

/-- The account of a RECV of `n` bytes, started with `rx` held by the transport: in each of its states what it has taken, and
what it holds of it in its registers (42_frame_recv R171 to R177). A RECV that fails leaves nothing to account for. -/
inductive RecvAccount (n : Nat) (rx : List Byte) (s : State) : Prop
  | r1 : s.block.st = .r1 → TakenFrom rx [] s.link.rxStream → RecvAccount n rx s
  | r2 : s.block.st = .r2 → lengthOk n = true → TakenFrom rx [Config.responseOpcode] s.link.rxStream → RecvAccount n rx s
  | r3 : s.block.st = .r3 → lengthOk n = true → TakenFrom rx [Config.responseOpcode] s.link.rxStream → RecvAccount n rx s
  | r4 : s.block.st = .r4 → lengthOk n = true →
      TakenFrom rx [Config.responseOpcode, lenField n] s.link.rxStream →
      s.block.lenf = lenField n → s.block.lenfReg = lenField n → RecvAccount n rx s
  | r5 : s.block.st = .r5 →
      TakenFrom rx ([Config.responseOpcode, lenField n] ++ s.block.payload) s.link.rxStream →
      s.block.lenf = lenField n → s.block.lenfReg = lenField n → RecvAccount n rx s
  | r6 : s.block.st = .r6 →
      TakenFrom rx ([Config.responseOpcode, lenField n] ++ s.block.payload ++ [lo8 s.block.rxcrc, hi8 s.block.rxcrc])
        s.link.rxStream →
      s.block.lenfReg = lenField n → s.block.crc = fcs Config.responseOpcode (lenField n) s.block.payload →
      RecvAccount n rx s
  | failed : s.block.st = .idle → s.block.result ≠ .ok → RecvAccount n rx s
  | ok : s.block.st = .idle → TakenFrom rx (frameBytes Config.responseOpcode s.block.payload) s.link.rxStream →
      s.block.lenfReg = lenField n → s.block.crc = fcs Config.responseOpcode (lenField n) s.block.payload →
      s.block.rxcrc = s.block.crc → RecvAccount n rx s

/-- A state in the run, or after the end, of a RECV of `n` bytes, started with `rx` held by the transport. -/
structure RecvRun (n : Nat) (rx : List Byte) (s : State) : Prop where
  nbytes : s.block.nbytes.toNat = n
  account : RecvAccount n rx s

/-! ## Each step of RECV -/

section
variable {n : Nat} {rx : List Byte} {s : State}

/-- A transaction that is never answered leaves the account as it is. -/
theorem RecvRun.never_answered (h : RecvRun n rx s) (txs : List TxAnswer) (rxs : List RxAnswer) (d : Nat) :
    RecvRun n rx (s.afterNone txs rxs d) := by
  refine ⟨h.nbytes, ?_⟩
  cases h.account with
  | r1 hst htaken => exact .r1 hst htaken
  | r2 hst hlen htaken => exact .r2 hst hlen htaken
  | r3 hst hlen htaken => exact .r3 hst hlen htaken
  | r4 hst hlen htaken hlenf hreg => exact .r4 hst hlen htaken hlenf hreg
  | r5 hst htaken hlenf hreg => exact .r5 hst htaken hlenf hreg
  | r6 hst htaken hreg hcrc => exact .r6 hst htaken hreg hcrc
  | failed hst hresult => exact .failed hst hresult
  | ok hst htaken hreg hcrc hagree => exact .ok hst htaken hreg hcrc hagree

theorem RecvRun.after_stepR1 (h : RecvRun n rx s) (htaken : TakenFrom rx [] s.link.rxStream) :
    RecvRun n rx (stepR1 s) := by
  rcases stepR1_cases s with
    ⟨-, hs⟩ | ⟨hlen, ⟨k, a, d, hs⟩ | ⟨v, a, d, hv, ⟨-, hs⟩ | ⟨rfl, hs⟩⟩ | ⟨a, b, d, -, hs⟩⟩ <;> rw [hs]
  · exact ⟨h.nbytes, .failed rfl nofun⟩
  · exact ⟨h.nbytes, .failed rfl nofun⟩
  · exact ⟨h.nbytes, .failed rfl nofun⟩
  · exact ⟨h.nbytes, .r2 rfl (h.nbytes ▸ hlen) (htaken.append_byte hv)⟩
  · exact h.never_answered a b d

theorem RecvRun.after_stepR2 (h : RecvRun n rx s) (hlen : lengthOk n = true)
    (htaken : TakenFrom rx [Config.responseOpcode] s.link.rxStream) : RecvRun n rx (stepR2 s) := by
  rcases stepR2_cases s with ⟨a, d, hs⟩ | ⟨k, a, d, hs⟩ | ⟨a, b, d, -, hs⟩ <;> rw [hs]
  · exact ⟨h.nbytes, .r3 rfl hlen htaken⟩
  · exact ⟨h.nbytes, .failed rfl nofun⟩
  · exact h.never_answered a b d

theorem RecvRun.after_stepR3 (h : RecvRun n rx s) (hlen : lengthOk n = true)
    (htaken : TakenFrom rx [Config.responseOpcode] s.link.rxStream) : RecvRun n rx (stepR3 s) := by
  rcases stepR3_cases s with ⟨k, a, d, hs⟩ | ⟨v, a, d, hv, ⟨-, hs⟩ | ⟨hl, hs⟩⟩ | ⟨a, b, d, -, hs⟩ <;> rw [hs]
  · exact ⟨h.nbytes, .failed rfl nofun⟩
  · exact ⟨h.nbytes, .failed rfl nofun⟩
  · rw [h.nbytes] at hl
    subst hl
    exact ⟨h.nbytes, .r4 rfl hlen (htaken.append_byte hv) rfl rfl⟩
  · exact h.never_answered a b d

theorem RecvRun.after_stepR4 (h : RecvRun n rx s) (hlen : lengthOk n = true)
    (htaken : TakenFrom rx [Config.responseOpcode, lenField n] s.link.rxStream) (hlenf : s.block.lenf = lenField n)
    (hreg : s.block.lenfReg = lenField n) : RecvRun n rx (stepR4 s) := by
  rcases stepR4_cases s with ⟨bs, a, d, hbs, htake, hs⟩ | ⟨k, a, d, e, hs⟩ | ⟨a, b, d, -, hs⟩ <;> rw [hs]
  · have hfit : bs.length ≤ Config.bufBytes := hbs.trans h.nbytes ▸ ((lengthOk_iff n).1 hlen).2.2
    have hstored : ({ s.block with buf := s.block.buf.writeBytes 0 bs, st := .r5 } : Block).payload = bs := by
      have hread := memRead_writeBytes s.block bs hfit
      rw [hbs] at hread
      exact (payload_congr rfl rfl rfl).trans hread
    rw [← hbs] at htake ⊢
    exact ⟨h.nbytes, .r5 rfl (hstored.symm ▸ htaken.append htake) hlenf hreg⟩
  · exact ⟨h.nbytes, .failed rfl nofun⟩
  · exact h.never_answered a b d

theorem RecvRun.after_stepR5 (h : RecvRun n rx s)
    (htaken : TakenFrom rx ([Config.responseOpcode, lenField n] ++ s.block.payload) s.link.rxStream)
    (hlenf : s.block.lenf = lenField n) (hreg : s.block.lenfReg = lenField n) : RecvRun n rx (stepR5 s) := by
  rcases stepR5_cases s with ⟨k, a, d, hs⟩ | ⟨c0, c1, a, d, htake, hs⟩ | ⟨a, b, d, -, hs⟩ <;> rw [hs]
  · exact ⟨h.nbytes, .failed rfl nofun⟩
  · rw [hlenf]
    generalize hc : fcs Config.responseOpcode (lenField n) s.block.payload = c
    have hpayload : ({ s.block with rxcrc := le16 c0 c1, crc := c, fcsAcc := c, st := .r6 } : Block).payload =
        s.block.payload := payload_congr rfl rfl rfl
    exact ⟨h.nbytes, .r6 rfl (hpayload.symm ▸ htaken.append_checksum htake) hreg
      (hc.symm.trans (congrArg (fcs Config.responseOpcode (lenField n)) hpayload.symm))⟩
  · exact h.never_answered a b d

theorem RecvRun.after_stepR6 (h : RecvRun n rx s)
    (htaken : TakenFrom rx
      ([Config.responseOpcode, lenField n] ++ s.block.payload ++ [lo8 s.block.rxcrc, hi8 s.block.rxcrc]) s.link.rxStream)
    (hreg : s.block.lenfReg = lenField n)
    (hcrc : s.block.crc = fcs Config.responseOpcode (lenField n) s.block.payload) : RecvRun n rx (stepR6 s) := by
  rcases stepR6_cases s with
    ⟨-, ⟨a, d, hs⟩ | ⟨k, a, d, hs⟩⟩ | ⟨hagree, ⟨a, d, hs⟩ | ⟨k, a, d, hs⟩⟩ | ⟨a, b, d, -, hs⟩ <;> rw [hs]
  · exact ⟨h.nbytes, .failed rfl nofun⟩
  · exact ⟨h.nbytes, .failed rfl nofun⟩
  · have hframe : [Config.responseOpcode, lenField n] ++ s.block.payload ++ [lo8 s.block.rxcrc, hi8 s.block.rxcrc] =
        frameBytes Config.responseOpcode s.block.payload := by
      rw [frameBytes, payload_length, h.nbytes, ← hcrc, hagree]
    rw [hframe] at htaken
    exact ⟨h.nbytes, .ok rfl htaken hreg hcrc hagree⟩
  · exact ⟨h.nbytes, .failed rfl nofun⟩
  · exact h.never_answered a b d

/-- A block step keeps the account of what RECV has taken. -/
theorem RecvRun.after_blockStep (h : RecvRun n rx s) : RecvRun n rx (blockStep s) := by
  cases h.account with
  | r1 hst htaken => exact blockStep_r1 hst ▸ h.after_stepR1 htaken
  | r2 hst hlen htaken => exact blockStep_r2 hst ▸ h.after_stepR2 hlen htaken
  | r3 hst hlen htaken => exact blockStep_r3 hst ▸ h.after_stepR3 hlen htaken
  | r4 hst hlen htaken hlenf hreg => exact blockStep_r4 hst ▸ h.after_stepR4 hlen htaken hlenf hreg
  | r5 hst htaken hlenf hreg => exact blockStep_r5 hst ▸ h.after_stepR5 htaken hlenf hreg
  | r6 hst htaken hreg hcrc => exact blockStep_r6 hst ▸ h.after_stepR6 htaken hreg hcrc
  | failed hst hresult => exact (blockStep_idle hst).symm ▸ h
  | ok hst htaken hreg hcrc hagree => exact (blockStep_idle hst).symm ▸ h

theorem RecvRun.iterate (h : RecvRun n rx s) (k : Nat) : RecvRun n rx (blockStep^[k] s) := by
  induction k with
  | zero => exact h
  | succ k ih => rw [Function.iterate_succ_apply']; exact ih.after_blockStep

/-- A RECV that has ended with OK has taken the frame of the payload in BUF, and its registers are that frame's. -/
theorem RecvRun.of_ok (h : RecvRun n rx s) (hidle : s.block.st = .idle) (hok : s.block.result = .ok) :
    TakenFrom rx (frameBytes Config.responseOpcode s.block.payload) s.link.rxStream ∧ s.block.lenfReg = lenField n ∧
      s.block.crc = fcs Config.responseOpcode (lenField n) s.block.payload ∧ s.block.rxcrc = s.block.crc := by
  cases h.account with
  | ok _ htaken hreg hcrc hagree => exact ⟨htaken, hreg, hcrc, hagree⟩
  | failed _ hresult => exact absurd hok hresult
  | r1 hst | r2 hst | r3 hst | r4 hst | r5 hst | r6 hst => cases hst.symm.trans hidle

end

/-- Settles O57: the account holds at the start of RECV, every step keeps it, and an OK leaves one case of it; the tokens are
those of the result OK. -/
theorem recvEndsOkOnlyOnGoodFrame : Obligations.RecvEndsOkOnlyOnGoodFrame := by
  unfold Obligations.RecvEndsOkOnlyOnGoodFrame
  rintro s u t hi hidle hanswered hexec ht hend hok
  obtain ⟨sent, htx, -, hsent⟩ := recvTransmitsTokensByResult s u t hi hidle hanswered hexec ht
  obtain ⟨-, -, -, -, -, -, hsentOk⟩ := hsent hend
  obtain rfl := Host.Outcome.next.inj ((exec_recv_idle hi hidle).symm.trans hexec)
  have hstart : RecvRun s.block.nbytes.toNat s.link.rxStream { s with block := s.block.startCommand 0x03#8 } :=
    ⟨rfl, .r1 rfl (.start _)⟩
  have hrun : RecvRun s.block.nbytes.toNat s.link.rxStream t := ht ▸ hstart.iterate 6
  obtain ⟨⟨hagree, hleft⟩, hreg, hcrc, hrxcrc⟩ := hrun.of_ok ((busy_eq_false_iff _).1 hend) hok
  rw [frameBytes_length, payload_length, hrun.nbytes] at hagree hleft
  exact ⟨hreg, hcrc, hrxcrc, hagree, hleft, htx.trans (congrArg _ (hsentOk hok))⟩

end Sys2Proof.Machine
end

section
/-!
PROOFS. The client's reading of a response: the numbers in its bytes and the outcome they give (43_client_od_layer R201 to
R206).
-/

namespace Sys2Proof.Machine

/-! ## LE32 (43_client_od_layer R201) -/

/-- The four bytes stand side by side in the word, so joining neighbours, from the high end down, gives the whole of it. -/
theorem le32_extractLsb' (v : Word) :
    le32 (v.extractLsb' 0 8) (v.extractLsb' 8 8) (v.extractLsb' 16 8) (v.extractLsb' 24 8) = v := by
  rw [le32, BitVec.extractLsb'_append_extractLsb'_eq_extractLsb' (show 24 = 16 + 8 from rfl),
    BitVec.extractLsb'_append_extractLsb'_eq_extractLsb' (show 16 = 8 + 8 from rfl),
    BitVec.extractLsb'_append_extractLsb'_eq_extractLsb' (show 8 = 0 + 8 from rfl)]
  exact BitVec.extractLsb'_eq_self

/-! ## The response -/

/-- A value encoded behind any bytes is the field that starts at its place. -/
theorem responseField_append_le32Bytes (before after : List Byte) (v : Word) :
    responseField (before ++ (le32Bytes v ++ after)) before.length = v := by
  have hat (k : Nat) : (before ++ (le32Bytes v ++ after)).getD (before.length + k) 0x00#8 =
      (le32Bytes v ++ after).getD k 0x00#8 := by
    rw [List.getD_append_right _ _ _ _ (Nat.le_add_right ..), Nat.add_sub_cancel_left]
  have hfirst := hat 0
  rw [Nat.add_zero] at hfirst
  rw [responseField, hfirst, hat, hat, hat]
  exact le32_extractLsb' v

/-- A response that begins with the device's code ends by that code alone, whatever follows it. -/
theorem endOutcome_le32Bytes_append (err : Word) (after : List Byte) (good : ClientOutcome) :
    endOutcome (le32Bytes err ++ after) good = if err = 0#32 then good else .deviceError err := by
  have hcode : responseField (le32Bytes err ++ after) 0 = err := responseField_append_le32Bytes [] after err
  rw [endOutcome, hcode]

theorem doEndRead_outcome {s : State} {err val : Word} (h : s.ctl.client.bytes = le32Bytes err ++ le32Bytes val) :
    (doEndRead s).ctl.client.outcome = some (if err = 0#32 then .value val else .deviceError err) := by
  have hvalue : responseField (le32Bytes err ++ le32Bytes val) 4 = val :=
    responseField_append_le32Bytes (le32Bytes err) [] val
  rw [doEndRead, h, endOutcome_le32Bytes_append, hvalue]

theorem doEndWrite_outcome {s : State} {err : Word} (h : s.ctl.client.bytes = le32Bytes err) :
    (doEndWrite s).ctl.client.outcome = some (if err = 0#32 then .written else .deviceError err) := by
  rw [doEndWrite, h, ← List.append_nil (le32Bytes err), endOutcome_le32Bytes_append]

/-- Settles O52: each response is read by the fields its bytes encode, the code first. -/
theorem clientReadsResponse : Obligations.ClientReadsResponse := by
  unfold Obligations.ClientReadsResponse
  exact ⟨le32_extractLsb', fun _ _ _ => ⟨doEndRead_outcome, doEndWrite_outcome⟩⟩

end Sys2Proof.Machine
end

section
/-!
PROOFS. The accesses that do nothing (44_host_access R220), and what a busy block answers an access: a free value
(R219) or a fault (R218, 60_exceptions R247, R248).
-/

namespace Sys2Proof.Machine

/-! ## FAULT -/

/-- Settles O13: of the moves a step can make only the refused write of a busy block sets FAULT. -/
theorem faultArisesOnlyWhileBusy : Obligations.FaultArisesOnlyWhileBusy := by
  unfold Obligations.FaultArisesOnlyWhileBusy
  intro s t hclear hstep hset
  rcases step_blockMove hstep with
    ⟨hblock, -⟩ | ⟨hbusy, hblock, hlink⟩ | ⟨-, r, v, -, hblock, -⟩ | ⟨-, u, hu, -, hblock, -⟩ | ⟨-, hblock, -⟩
  · rw [hblock, hclear] at hset
    cases hset
  · exact ⟨hbusy, hblock, hlink⟩
  · rw [hblock, writeReg_fault, hclear] at hset
    cases hset
  · rw [hblock, (blockStep_frame u).1.fault, hu, hclear] at hset
    cases hset
  · rw [hblock] at hset
    cases hset

/-! ## Accesses that do nothing (44_host_access R220) -/

/-- A reserved bit or an unmapped number selects no register (30_encoding R92). -/
theorem selectReg_eq_none {rsv : BitVec 5} {n : BitVec 10}
    (h : rsv ≠ 0#5 ∨ (0x00B ≤ n.toNat ∧ n.toNat ≤ 0x0FF) ∨ 0x2FE ≤ n.toNat) : selectReg rsv n = none := by
  rcases h with hrsv | hn
  · exact if_neg hrsv
  · rw [selectReg, ofNumber_unmapped hn, ite_self]

theorem hostRead_none_or_cmd {sel : Option Reg} (h : sel = none ∨ sel = some .cmd) (s : State) :
    hostRead sel s = { s with ctl.data := 0x0000#16 } := by
  rcases h with rfl | rfl
  · rfl
  · exact hostRead_exact (.inr rfl)

/-- A write that selects nothing it could write is ignored. -/
theorem hostWrite_ignored {sel : Option Reg} (h : sel.all Reg.isReadOnly = true) (v : Half) (s : State) :
    hostWrite sel v s = s := by
  cases sel with
  | none => rfl
  | some r => exact if_pos h

theorem ofNumber_readOnly : ∀ n ∈ [0x001#10, 0x002#10, 0x003#10, 0x005#10, 0x008#10, 0x009#10, 0x00A#10],
    (Reg.ofNumber n).all Reg.isReadOnly = true := by
  decide

/-- A read-only register's number selects it or, with a reserved bit, nothing. -/
theorem selectReg_readOnly (rsv : BitVec 5) {n : BitVec 10}
    (h : n ∈ [0x001#10, 0x002#10, 0x003#10, 0x005#10, 0x008#10, 0x009#10, 0x00A#10]) :
    (selectReg rsv n).all Reg.isReadOnly = true := by
  unfold selectReg
  split_ifs
  · exact ofNumber_readOnly n h
  · rfl

/-- Settles O22: such a read selects no register or CMD, such a write no register or a read-only one. -/
theorem unmappedAccessesAreHarmless : Obligations.UnmappedAccessesAreHarmless := by
  unfold Obligations.UnmappedAccessesAreHarmless
  intro rsv n data s
  refine ⟨fun h => congrArg _ (hostRead_none_or_cmd ?_ s), fun h => congrArg _ (hostWrite_ignored ?_ data s)⟩
  · rcases h with hrsv | rfl | hn
    · exact .inl (selectReg_eq_none (.inl hrsv))
    · exact (ite_eq_or_eq (rsv = 0#5) (some Reg.cmd) none).symm
    · exact .inl (selectReg_eq_none (.inr hn))
  · rcases h with hrsv | hlow | hhigh | hmem
    · rw [selectReg_eq_none (.inl hrsv), Option.all_none]
    · rw [selectReg_eq_none (.inr (.inl hlow)), Option.all_none]
    · rw [selectReg_eq_none (.inr (.inr hhigh)), Option.all_none]
    · exact selectReg_readOnly rsv hmem

/-! ## Reads of a busy block (44_host_access R219) -/

theorem exec_hostRd_hidden {n : BitVec 10} {r : Reg} (hn : Reg.ofNumber n = some r)
    (hhidden : r.isHiddenWhileBusy = true) (data : Half) {s : State} (hbusy : s.busy = true) :
    exec (.hostRd 0#5 n data) s = .next { s with ctl.data := hiddenRead r s.draws, draws := s.draws + 1 } := by
  have hsel : selectReg 0#5 n = some r := (if_pos rfl).trans hn
  simp only [exec, execHostRd, hsel, hostRead, hbusy, hhidden, Bool.and_self, if_true]

/-- The unused high bits of an 8-bit register read 0. -/
theorem hiddenRead_narrow_lt {r : Reg} (h : r.isWide = false) (draw : Nat) : (hiddenRead r draw).toNat < 256 := by
  rw [hiddenRead, h, if_neg Bool.false_ne_true, BitVec.toNat_setWidth_of_le (by decide)]
  exact (lo8 (Config.busyRead draw)).isLt

/-- RESULT, ERRBYTE, LENF and the bytes of BUF: hidden registers of eight bits. -/
theorem ofNumber_hidden_narrow {n : BitVec 10}
    (h : n = 0x002#10 ∨ n = 0x003#10 ∨ n = 0x005#10 ∨ (0x100 ≤ n.toNat ∧ n.toNat < 0x2FE)) :
    ∃ r, Reg.ofNumber n = some r ∧ r.isHiddenWhileBusy = true ∧ r.isWide = false := by
  rcases h with rfl | rfl | rfl | hwindow
  · exact ⟨.result, rfl, rfl, rfl⟩
  · exact ⟨.errbyte, rfl, rfl, rfl⟩
  · exact ⟨.lenf, rfl, rfl, rfl⟩
  · exact ⟨_, ofNumber_window hwindow, rfl, rfl⟩

/-- Settles O24: each number names a hidden register, whose read is `hiddenRead`. -/
theorem busyReadsReturnFreeValue : Obligations.BusyReadsReturnFreeValue := by
  unfold Obligations.BusyReadsReturnFreeValue
  refine fun data s hbusy => ⟨?_, fun n hnumber => ?_⟩
  · rintro n (rfl | rfl)
    · exact exec_hostRd_hidden (r := .crc) rfl rfl data hbusy
    · exact exec_hostRd_hidden (r := .rxcrc) rfl rfl data hbusy
  · obtain ⟨r, hn, hhidden, hnarrow⟩ := ofNumber_hidden_narrow hnumber
    exact ⟨_, hiddenRead_narrow_lt hnarrow s.draws, exec_hostRd_hidden hn hhidden data hbusy⟩

/-! ## Writes to a busy block (44_host_access R218) -/

/-- CMD, OPC, NBYTES, SEED and the bytes of BUF can be written. -/
theorem ofNumber_writable {n : BitVec 10}
    (h : n ∈ [0x000#10, 0x004#10, 0x006#10, 0x007#10] ∨ (0x100 ≤ n.toNat ∧ n.toNat < 0x2FE)) :
    ∃ r, Reg.ofNumber n = some r ∧ r.isReadOnly = false := by
  rcases h with hmem | hwindow
  · simp only [List.mem_cons, List.not_mem_nil, or_false] at hmem
    rcases hmem with rfl | rfl | rfl | rfl
    · exact ⟨.cmd, rfl, rfl⟩
    · exact ⟨.opc, rfl, rfl⟩
    · exact ⟨.nbytes, rfl, rfl⟩
    · exact ⟨.seed, rfl, rfl⟩
  · exact ⟨_, ofNumber_window hwindow, rfl⟩

theorem exec_hostWr_busy {n : BitVec 10} {r : Reg} (hn : Reg.ofNumber n = some r) (hrw : r.isReadOnly = false)
    (v : Half) {s : State} (hbusy : s.busy = true) :
    exec (.hostWr 0#5 n v) s = .next { s with block.fault := true } := by
  have hsel : selectReg 0#5 n = some r := (if_pos rfl).trans hn
  simp only [exec, execHostWr, hsel, hostWrite, hrw, hbusy, Bool.false_eq_true, if_false, if_true, Block.raiseFault]

/-- Settles O28: each number names a writable register, and the four rows write CMD. -/
theorem busyWritesFault : Obligations.BusyWritesFault := by
  unfold Obligations.BusyWritesFault
  intro v hi code s hbusy
  refine ⟨fun n hnumber => ?_, ?_⟩
  · obtain ⟨r, hn, hrw⟩ := ofNumber_writable hnumber
    exact exec_hostWr_busy hn hrw v hbusy
  · exact ⟨congrArg _ (commandWrite_busy hi _ hbusy), congrArg _ (commandWrite_busy hi _ hbusy),
      congrArg _ (commandWrite_busy hi _ hbusy), congrArg _ (commandWrite_busy hi _ hbusy)⟩

end Sys2Proof.Machine
end

section
/-!
PROOFS. No step faults and none is refused (60_exceptions R235, R248): a rule per layer of a step, from the meaning of an
instruction to the agent whose turn it is, that the layer answers a next state.
-/

namespace Sys2Proof.Machine

/-- Every instruction has a meaning in every state: what goes wrong is a result or FAULT, within the next state. -/
theorem exec_answers_next (i : Instr) (s : State) : ∃ t : State, exec i s = .next t := by
  cases i with
  | hostRd | hostWr => exact ⟨_, rfl⟩
  | crcRun | send | recv | cmdIllegal => exact ⟨_, rfl⟩
  | response | tokenO | tokenF => exact ⟨_, rfl⟩
  | readObject | writeObject => exact ⟨_, rfl⟩

/-- An access and a client request run an instruction; the controller's other operations are its own. -/
theorem controllerMove_answers_next (s : State) : ∃ t : State, controllerMove s = .next t := by
  unfold controllerMove
  cases s.ctl.program with
  | nil => exact ⟨_, rfl⟩
  | cons op rest =>
    cases op with
    | access w => exact exec_answers_next _ _
    | request r => cases r <;> exact exec_answers_next _ _
    | wait | checkResult | collect | endRead | endWrite => exact ⟨_, rfl⟩

theorem eventMove_answers_next (e : Event) (s : State) : ∃ t : State, eventMove e s = .next t := by
  cases e with
  | controller => exact controllerMove_answers_next s
  | wire b => exact ⟨_, wireMove_eq_deliverByte b s⟩
  | block | flush | reset => exact ⟨_, rfl⟩

/-- Where no event is scheduled the block or the controller moves, whichever's turn it is. -/
theorem freeMove_answers_next (s : State) : ∃ t : State, freeMove s = .next t := by
  unfold freeMove
  split
  · split
    · exact ⟨_, rfl⟩
    · exact ⟨_, rfl⟩
    · exact controllerMove_answers_next _
  · exact controllerMove_answers_next s

/-- Settles O8: a scheduled event and a free move answer a next state, and the deployment's variant is not refused. -/
theorem everyStepAnswersNext : Obligations.EveryStepAnswersNext := by
  unfold Obligations.EveryStepAnswersNext
  intro s
  cases hsched : s.sched with
  | nil =>
    simp only [step_eq_move, move, hsched]
    exact freeMove_answers_next s
  | cons e evs =>
    rw [step_scheduled hsched]
    exact eventMove_answers_next e _

end Sys2Proof.Machine
end
